-- ==== Sys2Proof/Config.lean ====
section
/-! DEFINITION. The parameters of R8 and the free values the spec leaves open. `RXMAX`, which R8 leaves open, is
an argument carried by the state (log 11), its bounds are here. The symbol table of R85 is configuration
data too (D7); it stands in Machine/Operands.lean, where a repair may replace it. -/

namespace Sys2Proof.Config

/-- `ADDR_BITS` (R8): a device register address is at most this. -/
abbrev addrMax : Nat := 0xFFFF

/-- `VALUE_BITS` (R8): a value or count is at most this. -/
abbrev valueMax : Nat := 0xFFFF

/-- `SLAVE_BITS` (R8): a slave address is at most this. -/
abbrev slaveMax : Nat := 0xFF

/-- `CHANNEL_STRIDE` (R8). -/
abbrev channelStride : Nat := 0x0400

/-- `TX_FRAME_LEN` (R8, R56). -/
abbrev txFrameLen : Nat := 17

/-- `PAYLOAD_OFFSET` (R8): zero-based character index of the payload (D14). -/
abbrev payloadOffset : Nat := 7

/-- `PAYLOAD_LEN` (R8). -/
abbrev payloadLen : Nat := 4

/-- `HOST_DATA_BITS` (R8): the width of a host word. -/
abbrev hostDataBits : Nat := 32

/-- The least `RXMAX` a TMAC may have (R8, D13, U17). `RXMAX` itself is an argument of the model: `State.rxMax` (log 11). -/
abbrev rxMaxLeast : Nat := 27

/-- The value R8 gives `RXMAX`: that of `State.reset`. -/
abbrev rxMaxDefault : Nat := 64

/-- `DECSTR_LEN` (R8, D40). -/
abbrev decStrLen : Nat := 8

/-- `SETPOINT_ADDR` (R8, R87): chosen at run time by CTRL.SPSEL (D9). -/
def setPointAddr (spsel : Bool) : Nat := if spsel then 0x0173 else 0x0171

/-- FREE VALUE (log 3): the byte that the k-th host read of an unspecified buffer byte returns (R35, U9, U10, U11). No
body: nothing can be proved of it. -/
opaque unspecifiedByte : Nat → BitVec 8

end Sys2Proof.Config
end

