-- ==== Sys2Proof/Word.lean ====
section
/-! DEFINITION. The word types of TMAC: bytes (characters and buffer bytes), 16-bit fields and 32-bit host words. -/

namespace Sys2Proof

/-- One character of a frame, one buffer byte (R12, R33, R34). -/
abbrev Byte := BitVec 8

/-- A 16-bit field of a frame: register address, value or count (R8, R55). -/
abbrev Half := BitVec 16

/-- A host-bus word of `HOST_DATA_BITS` = `Config.hostDataBits` bits (R8). The width stands as a numeral, because R9 and
R38 number the bits and bytes of a 32-bit word; `word_is_hostDataBits` ties it to the parameter. -/
abbrev Word := BitVec 32

/-- A host word has the width that R8's parameter gives. -/
theorem word_is_hostDataBits : Word = BitVec Config.hostDataBits := rfl

end Sys2Proof
end

