-- ==== Sys2Proof/Syntax.lean ====
section
/-! DEFINITION. The instructions of TMAC: one constructor per row of spec/opcode_table.json (the twelve command words of
R52 and the two wire frames of R55, which R4 counts into the ISA). -/

namespace Sys2Proof

/-- One row of the opcode table each. `ch` is the CH bit, `sym` the SYM field of the command word (R51). The wire frames
carry the fields AA, CCCC, DDDD and EE of R55. -/
inductive Instr where
  /-- R98. -/
  | nop
  /-- R71. -/
  | encRead (ch : Bool)
  /-- R72. -/
  | encWrite (ch : Bool)
  /-- R73. -/
  | encReadSym (sym : BitVec 4)
  /-- R74. -/
  | encWriteSym (sym : BitVec 4)
  /-- R91. -/
  | resolve (sym : BitVec 4)
  /-- R92. -/
  | bindChan
  /-- R81. -/
  | decode
  /-- R82. -/
  | decodeTemp
  /-- R83. -/
  | decodePstate
  /-- R84. -/
  | lrcCheck
  /-- R99. -/
  | softReset
  /-- R55, R57: function code 03; DDDD is the register count. -/
  | fc03ReadHolding (slave : Byte) (addr count : Half) (lrc : Byte)
  /-- R55, R57: function code 06; DDDD is the value. -/
  | fc06WriteSingle (slave : Byte) (addr value : Half) (lrc : Byte)
deriving DecidableEq, Repr

end Sys2Proof
end

