-- ==== Sys2Proof/Machine/State.lean ====
section
/-! DEFINITION. The state of TMAC (R17), as plain data, the inputs it waits for, and the state after reset (R111). -/

namespace Sys2Proof.Machine

/-- The values of STATUS.ERR (R101). Their codes are `ErrCode.code`. -/
inductive ErrCode where
  | ok | empty | short | nonHex | sof | odd | frameHex | lrc | overlong
  | rangeSlave | rangeAddr | rangeValue | rangeOffset | rangeChannel
  | illegal | locked | faulted | contract
deriving DecidableEq, Repr

/-- The process states of PSTATE (R32). -/
inductive ProcState where
  | stop | run | pause | undefined
deriving DecidableEq, Repr

/-- The word registers of R38, in address order. -/
inductive Reg where
  | cmd | status | ctrl | slave | addr | value | chan | chcount | resAddr | resLen | resScoped | txLrc | txLen
  | rxLen | rxEcho | rxPayload | rxData | tempInt | tempFrac | pstate | decLen
deriving DecidableEq, Repr

/-- The byte buffers of R38. -/
inductive Buf where
  | decstr | txbuf | rxbuf
deriving DecidableEq, Repr

/-- The width of a host access (R40). -/
inductive Width where
  | w8 | w16 | w32
deriving DecidableEq, Repr

/-- What reaches TMAC from outside (R14, R15; log 1): a host read or write at a byte offset, a received line that the host
loads (R34, R62), or the reset input. A 32-bit write to offset 0 is a command (R25). -/
inductive HostOp where
  | read (width : Width) (off : Nat)
  | write8 (off : Nat) (v : Byte)
  | write16 (off : Nat) (v : Half)
  | write32 (off : Nat) (v : Word)
  | line (text : List Byte)
  | resetInput
deriving DecidableEq, Repr

/-- Why the machine stops. -/
inductive Fault where
  /-- Raised by a host access that R40 does not admit (U12: "fault of the host's step"). No state change. Safe. -/
  | busError
  /-- Raised by DECODE, DECODE_TEMP, DECODE_PSTATE and LRC_CHECK when the line they read has a byte that nothing has
  written since reset (R35, U8: the spec asks for a fault). Safe. -/
  | unwrittenRxByte
deriving DecidableEq, Repr

/-- Why a step has no meaning. -/
inductive Refusal where
  /-- Raised by no arm: every instruction has its meaning. The name is the host's. Safe. -/
  | notModelled (mnemonic : String)
deriving DecidableEq, Repr

/-- The state: the registers of R17, the three buffers as one memory over host offsets, the parameter RXMAX (log 11), and
the model's own three fields `pending`, `readData` and `freeCount` (logs 1, 2, 3). The reserved bits of STATUS and CTRL have no field (log 20). -/
structure State where
  /-- STATUS.ERR. -/
  err : ErrCode
  /-- STATUS.FAULT, sticky (R105). -/
  fault : Bool
  /-- STATUS.LOCK (R92). -/
  lock : Bool
  /-- STATUS.LRCOK. -/
  lrcok : Bool
  /-- STATUS.EV. -/
  ev : Bool
  /-- STATUS.DV. -/
  dv : Bool
  /-- STATUS.SHORTV. -/
  shortv : Bool
  /-- CTRL.LRCEN (R27). -/
  lrcen : Bool
  /-- CTRL.SPSEL (R27). -/
  spsel : Bool
  slave : Word
  addr : Word
  value : Word
  chan : Word
  chcount : Word
  resAddr : Word
  resLen : Word
  resScoped : Word
  txLrc : Word
  txLen : Word
  rxLen : Word
  rxEcho : Word
  rxPayload : Word
  rxData : Word
  tempInt : Word
  tempFrac : Word
  decLen : Word
  pstate : ProcState
  /-- TXBUF, RXBUF and DECSTR: (host offset, byte), offsets strictly rising; an unlisted offset is never-written and has
  no value (R35, R36). -/
  mem : List Host.Cell
  /-- The parameter RXMAX of this TMAC (R8, U17): the capacity of RXBUF, at least 27. No step changes it (log 11). -/
  rxMax : Nat
  /-- The host transactions and inputs still to come, oldest first (log 1). -/
  pending : List HostOp
  /-- The data of the most recent host read, which is the host's and not TMAC's (log 2). -/
  readData : Word
  /-- How many free bytes host reads have returned (log 3). -/
  freeCount : Nat
deriving DecidableEq, Repr

/-- The three outcomes of a meaning. -/
abbrev Result := Host.Outcome State Fault Refusal

/-- R111: the state after reset of a TMAC with the given RXMAX. Nothing is pending (log 1); no buffer byte is written
(R35). -/
def State.resetWith (rxMax : Nat) : State where
  err := .ok
  fault := false
  lock := false
  lrcok := false
  ev := false
  dv := false
  shortv := false
  lrcen := true
  spsel := false
  slave := 0
  addr := 0
  value := 0
  chan := 0
  chcount := 0
  resAddr := 0
  resLen := 0
  resScoped := 0
  txLrc := 0
  txLen := 0
  rxLen := 0
  rxEcho := 0
  rxPayload := 0
  rxData := 0
  tempInt := 0
  tempFrac := 0
  decLen := 0
  pstate := .undefined
  mem := []
  rxMax := rxMax
  pending := []
  readData := 0
  freeCount := 0

/-- R111: the state after reset, with the RXMAX that R8 gives. -/
def State.reset : State := State.resetWith Config.rxMaxDefault

end Sys2Proof.Machine
end

