-- ==== Sys2Proof/Machine/Flags.lean ====
section
/-! DEFINITION. The codes and bit layouts of STATUS, CTRL and PSTATE (R26, R27, R32, R101). -/

namespace Sys2Proof.Machine

/-- R101: the code of each value of STATUS.ERR. -/
def ErrCode.code : ErrCode → Byte
  | .ok => 0x00
  | .empty => 0x01
  | .short => 0x02
  | .nonHex => 0x03
  | .sof => 0x04
  | .odd => 0x05
  | .frameHex => 0x06
  | .lrc => 0x07
  | .overlong => 0x08
  | .rangeSlave => 0x10
  | .rangeAddr => 0x11
  | .rangeValue => 0x12
  | .rangeOffset => 0x13
  | .rangeChannel => 0x14
  | .illegal => 0x20
  | .locked => 0x21
  | .faulted => 0x30
  | .contract => 0x31

/-- R32: the code of a process state in PSTATE. -/
def ProcState.code : ProcState → Word
  | .stop => 0
  | .run => 1
  | .pause => 2
  | .undefined => 3

/-- R83: the classification of a decoded process-state code. -/
def ProcState.ofCode (p : Nat) : ProcState :=
  if p = 0 then .stop else if p = 1 then .run else if p = 2 then .pause else .undefined

/-- A one-bit field in bit k of a word. -/
def flagBit (b : Bool) (k : Nat) : Word := if b then 1#32 <<< k else 0

/-- R26: the STATUS register as a host reads it; bits [31:14] are 0. -/
def State.statusWord (s : State) : Word :=
  s.err.code.setWidth 32 ||| flagBit s.fault 8 ||| flagBit s.lock 9 ||| flagBit s.lrcok 10 ||| flagBit s.ev 11 |||
    flagBit s.dv 12 ||| flagBit s.shortv 13

/-- R27: the CTRL register as a host reads it; bits [31:2] are 0. -/
def State.ctrlWord (s : State) : Word := flagBit s.lrcen 0 ||| flagBit s.spsel 1

/-- R82: SHORTV of a decoded temperature. -/
def shortFlag (p : Nat) : Bool := p < 10

end Sys2Proof.Machine
end

