-- ==== Sys2Proof/Machine/Hex.lean ====
section
/-! DEFINITION. Characters, the ASCII-hex serializer and deserializer, the LRC, and the text of a request frame
(R12, R43, R55, R63 to R68, R75 to R77). -/

namespace Sys2Proof.Machine

/-- R53, R86: SYM names one of the thirteen symbols; 13..15 name none. -/
def symOk (sym : BitVec 4) : Bool := sym.toNat ≤ 12

/-- `:` (R12). -/
abbrev chColon : Byte := 0x3A

/-- CR (R12). -/
abbrev chCR : Byte := 0x0D

/-- LF (R12). -/
abbrev chLF : Byte := 0x0A

/-- `.` (R12). -/
abbrev chDot : Byte := 0x2E

/-- R63: the n-th character of `0123456789ABCDEF`, upper case (D10). -/
def hexChar (n : Nat) : Byte :=
  if n < 10 then BitVec.ofNat 8 (0x30 + n) else BitVec.ofNat 8 (0x37 + n)

/-- R64: a byte as two characters, the high nibble first. -/
def hex2 (b : Byte) : List Byte := [hexChar (b.toNat / 16), hexChar (b.toNat % 16)]

/-- w[15:8]. -/
def hiByte (w : Half) : Byte := w.extractLsb' 8 8

/-- w[7:0]. -/
def loByte (w : Half) : Byte := w.extractLsb' 0 8

/-- R65: a 16-bit word as four characters, big-endian. -/
def hex4 (w : Half) : List Byte := hex2 (hiByte w) ++ hex2 (loByte w)

/-- The sum of a list of bytes, in ℕ. -/
def byteSum (bytes : List Byte) : Nat := (bytes.map BitVec.toNat).sum

/-- R66: the sum modulo 256, one's complement, plus one, low byte. -/
def lrc (bytes : List Byte) : Byte :=
  BitVec.ofNat 8 ((((byteSum bytes % 256) ^^^ 0xFF) + 1) % 256)

/-- R55, R68: the six bytes b0..b5 that the LRC of a request frame covers. -/
def frameBytes (slave fc : Byte) (a d : Half) : List Byte :=
  [slave, fc, hiByte a, loByte a, hiByte d, loByte d]

/-- R55: the 17 characters `:AABBCCCCDDDDEE<CR><LF>`. -/
def frameText (slave fc : Byte) (a d : Half) (e : Byte) : List Byte :=
  [chColon] ++ hex2 slave ++ hex2 fc ++ hex4 a ++ hex4 d ++ hex2 e ++ [chCR, chLF]

/-- R68: the text of the frame that emit builds, its checksum computed. -/
def requestText (fc slave : Byte) (a d : Half) : List Byte :=
  frameText slave fc a d (lrc (frameBytes slave fc a d))

/-- R75: the value of one hex-digit character; both cases are accepted (D11). -/
def hexVal (c : Byte) : Option Nat :=
  if 0x30 ≤ c.toNat ∧ c.toNat ≤ 0x39 then some (c.toNat - 0x30)
  else if 0x41 ≤ c.toNat ∧ c.toNat ≤ 0x46 then some (c.toNat - 0x37)
  else if 0x61 ≤ c.toNat ∧ c.toNat ≤ 0x66 then some (c.toNat - 0x57)
  else none

/-- R75: a character is "hex" exactly when it has a value. -/
def isHex (c : Byte) : Bool := (hexVal c).isSome

/-- R76: two characters at index i as a byte value; none if one of them is missing or not hex. -/
def parse2 (L : List Byte) (i : Nat) : Option Nat :=
  match L[i]?, L[i + 1]? with
  | some c, some d =>
    match hexVal c, hexVal d with
    | some h, some l => some (16 * h + l)
    | _, _ => none
  | _, _ => none

/-- R77: four characters at index i as a 16-bit value, big-endian. -/
def parse4 (L : List Byte) (i : Nat) : Option Nat :=
  match parse2 L i, parse2 L (i + 2) with
  | some h, some l => some (256 * h + l)
  | _, _ => none

end Sys2Proof.Machine
end

