-- ==== Sys2Proof/Machine/Memory.lean ====
section
/-! DEFINITION. The buffer memory: reading and writing one byte and runs of bytes, and its canonical form. An unlisted
offset is never-written and reads as nothing (R35). -/

namespace Sys2Proof.Machine

/-- The offsets of the list strictly rise. No entry could equal what an unlisted offset reads as, since that is no value. -/
def Memory.sorted : List Host.Cell → Bool
  | [] => true
  | [_] => true
  | c :: d :: rest => decide (c.1 < d.1) && Memory.sorted (d :: rest)

/-- The canonical form of a memory. -/
abbrev Memory.wf (m : List Host.Cell) : Prop := Memory.sorted m = true

/-- The byte at an offset; none where nothing has written since reset (R35). -/
def Memory.read : List Host.Cell → Nat → Option Byte
  | [], _ => none
  | c :: rest, a => if c.1 = a then some c.2 else Memory.read rest a

/-- Write one byte, keeping the offsets rising. -/
def Memory.write : List Host.Cell → Nat → Byte → List Host.Cell
  | [], a, b => [(a, b)]
  | c :: rest, a, b =>
    if a < c.1 then (a, b) :: c :: rest
    else if a = c.1 then (a, b) :: rest
    else c :: Memory.write rest a b

/-- Write a run of bytes, the first at offset a. -/
def Memory.writeBytes (m : List Host.Cell) (a : Nat) : List Byte → List Host.Cell
  | [] => m
  | b :: rest => Memory.writeBytes (Memory.write m a b) (a + 1) rest

/-- The n bytes from offset a on; none if one of them is never-written. -/
def Memory.readBytes (m : List Host.Cell) (a : Nat) : Nat → Option (List Byte)
  | 0 => some []
  | n + 1 =>
    match Memory.read m a, Memory.readBytes m (a + 1) n with
    | some b, some rest => some (b :: rest)
    | _, _ => none

/-- The host offset of DECSTR[0] (R38). -/
abbrev decstrBase : Nat := 0x060

/-- The host offset of TXBUF[0] (R38). -/
abbrev txbufBase : Nat := 0x080

/-- The host offset of RXBUF[0] (R38). -/
abbrev rxbufBase : Nat := 0x100

/-- The host offset of a buffer's byte 0 (R38). -/
def bufBase : Buf → Nat
  | .decstr => decstrBase
  | .txbuf => txbufBase
  | .rxbuf => rxbufBase

/-- The number of bytes of a buffer (R31, R33, R34). -/
def bufSize (rxMax : Nat) : Buf → Nat
  | .decstr => Config.decStrLen
  | .txbuf => Config.txFrameLen
  | .rxbuf => rxMax

/-- The buffer byte at a host offset, if one is there (R38). -/
def bufferAt (rxMax off : Nat) : Option (Buf × Nat) :=
  if decstrBase ≤ off ∧ off < decstrBase + bufSize rxMax .decstr then some (.decstr, off - decstrBase)
  else if txbufBase ≤ off ∧ off < txbufBase + bufSize rxMax .txbuf then some (.txbuf, off - txbufBase)
  else if rxbufBase ≤ off ∧ off < rxbufBase + bufSize rxMax .rxbuf then some (.rxbuf, off - rxbufBase)
  else none

end Sys2Proof.Machine
end

