-- ==== Sys2Proof/Machine/Operands.lean ====
section
/-! DEFINITION. The operand forms: symbols and channel offsets (42_register_map.md), the received line (R78), its
validation (R79) and its shared decoding (R80), and the decimal text of a temperature (R82). -/

namespace Sys2Proof.Machine

/-- One entry of the Register Map (R85). -/
structure SymRow where
  base : Nat
  len : Nat
  chScoped : Bool
deriving DecidableEq, Repr

/-- R85: the Register Map in the source's order. Configuration data that can be replaced (D7; log 12). -/
def symTable (spsel : Bool) : List SymRow :=
  [⟨0x0130, 1, false⟩,                        -- 0 ChannelCount
   ⟨0x0170, 4, true⟩,                         -- 1 Temperature
   ⟨Config.setPointAddr spsel, 1, true⟩,      -- 2 SetPoint (R87)
   ⟨0x0178, 1, true⟩,                         -- 3 TimeLeftStanding
   ⟨0x017B, 1, true⟩,                         -- 4 StartupProgramNumber
   ⟨0x017C, 1, true⟩,                         -- 5 StartupStepNumber
   ⟨0x0180, 1, true⟩,                         -- 6 ProcessControl
   ⟨0x0160, 1, true⟩,                         -- 7 ProgramEditNumber
   ⟨0x0161, 1, true⟩,                         -- 8 StepEditNumber
   ⟨0x0162, 1, true⟩,                         -- 9 StepKind
   ⟨0x0163, 1, true⟩,                         -- 10 StepParam1
   ⟨0x0164, 1, true⟩,                         -- 11 StepParam2
   ⟨0x0165, 1, true⟩]                         -- 12 StepTransitionCondition

/-- R85, R86: the entry of a symbol; indices 13..15 name none. -/
def symtab (sym : BitVec 4) (spsel : Bool) : Option SymRow := (symTable spsel)[sym.toNat]?

/-- R70: the channel offset of a bound channel c ≥ 1 (log 10 for c = 0, which no run reaches). -/
def choff (c : Nat) : Nat := Config.channelStride * (c - 1)

/-- R88, R89: the absolute address of an entry on channel c, in ℕ, before the range check. -/
def resolveAddr (row : SymRow) (c : Nat) : Nat := if row.chScoped then row.base + choff c else row.base

/-- R71, R72: the address of a raw command, in ℕ, before the range check. -/
def rawAddr (ch : Bool) (s : State) : Nat := s.addr.toNat + (if ch then choff s.chan.toNat else 0)

/-- CR or LF (R78). -/
def isEol (c : Byte) : Bool := c == chCR || c == chLF

/-- R78: a line without its trailing CR and LF characters. -/
def stripEol (L : List Byte) : List Byte := (L.reverse.dropWhile isEol).reverse

/-- What reading the line of R78 gives. -/
inductive RxLine where
  /-- RXLEN > RXMAX. -/
  | overlong
  /-- A byte below RXLEN is never-written (R35, U8; log 4). -/
  | unwritten
  /-- The stripped line. -/
  | line (L : List Byte)
deriving DecidableEq, Repr

/-- R78, R115: the line that a decode command reads: exactly RXBUF[0..RXLEN-1], stripped. -/
def rxLine (s : State) : RxLine :=
  if s.rxLen.toNat > s.rxMax then .overlong
  else
    match Memory.readBytes s.mem rxbufBase s.rxLen.toNat with
    | some L => .line (stripEol L)
    | none => .unwritten

/-- R79: the sum of the byte pairs after the start character. -/
def pairSum (L : List Byte) : Nat :=
  ((List.range ((L.length - 1) / 2)).map fun j => (parse2 L (1 + 2 * j)).getD 0).sum

/-- R79: the LRC validator. -/
def frameOk (L : List Byte) : Bool :=
  3 ≤ L.length && L[0]? == some chColon && (L.length - 1) % 2 == 0 && L.tail.all isHex && pairSum L % 256 == 0

/-- R80, R84: the checks E_SOF, E_ODD, E_FRAMEHEX, E_LRC in their order; the first that fails. -/
def frameError (L : List Byte) : Option ErrCode :=
  if L[0]? ≠ some chColon then some .sof
  else if (L.length - 1) % 2 ≠ 0 then some .odd
  else if L.tail.all isHex = false then some .frameHex
  else if pairSum L % 256 ≠ 0 then some .lrc
  else none

/-- How decode_line ends on a stripped line (R80). -/
inductive LineVerdict where
  | bad (e : ErrCode)
  | good (payload : Nat)
deriving DecidableEq, Repr

/-- R80: decode_line on a stripped line: the checks in order, then the payload L[7..10]. -/
def lineVerdict (lrcen : Bool) (L : List Byte) : LineVerdict :=
  if L.length = 0 then .bad .empty
  else if L.length < Config.payloadOffset + Config.payloadLen then .bad .short
  else
    match parse4 L Config.payloadOffset with
    | none => .bad .nonHex
    | some p =>
      if lrcen then
        match frameError L with
        | some e => .bad e
        | none => .good p
      else .good p

/-- R80: the address echo L[5..8], if it is hex. -/
def echoField (L : List Byte) : Option Nat := parse4 L 5

/-- R80: the data field L[9..12], if the line has 13 characters and it is hex. -/
def dataField (L : List Byte) : Option Nat := if 13 ≤ L.length then parse4 L 9 else none

/-- R84: LRC_CHECK on a stripped line: the first error, if any. -/
def lrcVerdict (L : List Byte) : Option ErrCode :=
  if L.length = 0 then some .empty else if L.length < 3 then some .short else frameError L

/-- The character of a decimal digit (R12). -/
def decChar (d : Nat) : Byte := BitVec.ofNat 8 (0x30 + d)

/-- The decimal digits of k, no leading zeros, with fuel for as many digits. -/
def decAux : Nat → Nat → List Byte
  | 0, _ => []
  | f + 1, k => if k < 10 then [decChar k] else decAux f (k / 10) ++ [decChar (k % 10)]

/-- R82: dec(k), for k of at most ten digits (a payload has at most five); dec(0) = "0". -/
def dec (k : Nat) : List Byte := decAux 10 k

/-- R82: the decimal text of a payload, the separator one digit from the end (D19). -/
def tempText (p : Nat) : List Byte := dec (p / 10) ++ [chDot] ++ dec (p % 10)

end Sys2Proof.Machine
end

