-- ==== Sys2Proof/Machine/Ops.lean ====
section
/-! DEFINITION. The named operations that the meanings share: reset (R111), raising an error or the contract fault
(R104, R105; TMAC has no trap entry and no trap return, R106), emitting a frame (R68) and its failure path (R69), and the
writes of a decode command (R80 to R83). -/

namespace Sys2Proof.Machine

/-- R104: record an error (or success) code and change nothing else. -/
def State.setErr (e : ErrCode) (s : State) : State := { s with err := e }

/-- R104, R105: what TMAC has in place of taking an exception. ERR gets the code, and the contract violation sets the
sticky FAULT bit; nothing else changes. It is left only by reset. -/
def State.raise (e : ErrCode) (s : State) : State :=
  { s with err := e, fault := s.fault || decide (e = .contract) }

/-- R103 step 1, R105: while FAULT = 1 a command changes only ERR, to E_FAULTED; otherwise it runs. -/
def whenNotFaulted (s : State) (run : Result) : Result :=
  if s.fault then .next (s.setErr .faulted) else run

/-- R111: reset puts every register at its reset value and forgets every buffer byte. RXMAX is fixed (log 11). The host's
side (pending, readData) and the free-byte counter are not TMAC's (log 14). -/
def State.resetAll (s : State) : State :=
  { State.resetWith s.rxMax with pending := s.pending, readData := s.readData, freeCount := s.freeCount }

/-- R100: a word that is not legal changes only ERR. -/
def illegalWord (s : State) : Result :=
  .next (if s.fault then s.setErr .faulted else s.setErr .illegal)

/-- R69: the failure path of every ENC_* command. -/
def State.encFail (e : ErrCode) (s : State) : State := { s.raise e with txLen := 0 }

/-- R68: write one request frame into TXBUF and report success. -/
def State.emit (fc slave : Byte) (a d : Half) (s : State) : State :=
  { s with
    mem := Memory.writeBytes s.mem txbufBase (requestText fc slave a d)
    txLen := BitVec.ofNat 32 Config.txFrameLen
    txLrc := (lrc (frameBytes slave fc a d)).setWidth 32
    err := .ok }

/-- R80: the failure path of every decode command and of LRC_CHECK. -/
def State.rxFail (e : ErrCode) (s : State) : State := { s with err := e, lrcok := false }

/-- R80: the writes of a successful decode_line of line L with payload p. -/
def State.rxGood (L : List Byte) (p : Nat) (s : State) : State :=
  { s with
    rxPayload := BitVec.ofNat 32 p
    rxEcho := ((echoField L).map (BitVec.ofNat 32)).getD s.rxEcho
    ev := (echoField L).isSome
    rxData := ((dataField L).map (BitVec.ofNat 32)).getD s.rxData
    dv := (dataField L).isSome
    lrcok := frameOk L
    err := .ok }

/-- R82: the writes of decodeScaledTemperature of payload p. -/
def State.storeTemp (p : Nat) (s : State) : State :=
  { s with
    tempInt := BitVec.ofNat 32 (p / 10)
    tempFrac := BitVec.ofNat 32 (p % 10)
    shortv := shortFlag p
    mem := Memory.writeBytes s.mem decstrBase (tempText p)
    decLen := BitVec.ofNat 32 (tempText p).length }

/-- R83: the write of the process-state classification of payload p. -/
def State.storePstate (p : Nat) (s : State) : State := { s with pstate := ProcState.ofCode p }

/-- R80: decode_line, followed on success by what the command does with the payload. -/
def decodeThen (post : Nat → State → State) (s : State) : Result :=
  whenNotFaulted s <|
    match rxLine s with
    | .overlong => .next (s.rxFail .overlong)
    | .unwritten => .fault .unwrittenRxByte
    | .line L =>
      match lineVerdict s.lrcen L with
      | .bad e => .next (s.rxFail e)
      | .good p => .next (post p (s.rxGood L p))

end Sys2Proof.Machine
end

