-- ==== Sys2Proof/Machine/Control.lean ====
section
/-! DEFINITION. NOP and SOFT_RESET (43_control.md). -/

namespace Sys2Proof.Machine

/-- NOP (R98): report success, change nothing else. -/
def execNop (s : State) : Result := whenNotFaulted s (.next (s.setErr .ok))

/-- SOFT_RESET (R99): reset, accepted while FAULT = 1 too. -/
def execSoftReset (s : State) : Result := .next s.resetAll

end Sys2Proof.Machine
end

