-- ==== Sys2Proof/Machine/FrameDecode.lean ====
section
/-! DEFINITION. DECODE, DECODE_TEMP, DECODE_PSTATE and LRC_CHECK (41_frame_decode.md). -/

namespace Sys2Proof.Machine

/-- DECODE (R81): decode_line and nothing more. -/
def execDecode (s : State) : Result := decodeThen (fun _ t => t) s

/-- DECODE_TEMP (R82): decode_line, then decodeScaledTemperature. -/
def execDecodeTemp (s : State) : Result := decodeThen State.storeTemp s

/-- DECODE_PSTATE (R83): decode_line, then the process-state classification. -/
def execDecodePstate (s : State) : Result := decodeThen State.storePstate s

/-- LRC_CHECK (R84): validate the line, whatever CTRL.LRCEN says. -/
def execLrcCheck (s : State) : Result :=
  whenNotFaulted s <|
    match rxLine s with
    | .overlong => .next (s.rxFail .overlong)
    | .unwritten => .fault .unwrittenRxByte
    | .line L =>
      match lrcVerdict L with
      | some e => .next (s.rxFail e)
      | none => .next { s with lrcok := true, err := .ok }

end Sys2Proof.Machine
end

