-- ==== Sys2Proof/Machine/FrameEncode.lean ====
section
/-! DEFINITION. The ENC_* commands (40_frame_encode.md). The checks stand in the order of R103; the first that fails ends
the command by the failure path of R69. -/

namespace Sys2Proof.Machine

/-- R71, R72: the part common to the raw commands, with the function code fc. -/
def encodeRaw (fc : Byte) (ch : Bool) (s : State) : Result :=
  whenNotFaulted s <|
    if ch = true ∧ s.lock = false then .next (s.encFail .contract)
    else if s.slave.toNat > Config.slaveMax then .next (s.encFail .rangeSlave)
    else if s.addr.toNat > Config.addrMax then .next (s.encFail .rangeAddr)
    else if s.value.toNat > Config.valueMax then .next (s.encFail .rangeValue)
    else if rawAddr ch s > Config.addrMax then .next (s.encFail .rangeOffset)
    else .next (s.emit fc (s.slave.setWidth 8) (BitVec.ofNat 16 (rawAddr ch s)) (s.value.setWidth 16))

/-- ENC_READ (R71): function code 03, the count from VALUE. -/
def execEncRead (ch : Bool) (s : State) : Result := encodeRaw 0x03 ch s

/-- ENC_WRITE (R72): function code 06, the value from VALUE. -/
def execEncWrite (ch : Bool) (s : State) : Result := encodeRaw 0x06 ch s

/-- ENC_READ_SYM (R73): function code 03, the count from the table. A symbol index that names no symbol is no legal
command (R53; log 9). -/
def execEncReadSym (sym : BitVec 4) (s : State) : Result :=
  match symtab sym s.spsel with
  | none => illegalWord s
  | some row =>
    whenNotFaulted s <|
      if row.chScoped = true ∧ s.lock = false then .next (s.encFail .contract)
      else if s.slave.toNat > Config.slaveMax then .next (s.encFail .rangeSlave)
      else if resolveAddr row s.chan.toNat > Config.addrMax then .next (s.encFail .rangeOffset)
      else
        .next (s.emit 0x03 (s.slave.setWidth 8) (BitVec.ofNat 16 (resolveAddr row s.chan.toNat))
          (BitVec.ofNat 16 row.len))

/-- ENC_WRITE_SYM (R74): function code 06, the value from VALUE. A symbol index that names no symbol is no legal command
(R53; log 9). -/
def execEncWriteSym (sym : BitVec 4) (s : State) : Result :=
  match symtab sym s.spsel with
  | none => illegalWord s
  | some row =>
    whenNotFaulted s <|
      if row.chScoped = true ∧ s.lock = false then .next (s.encFail .contract)
      else if s.slave.toNat > Config.slaveMax then .next (s.encFail .rangeSlave)
      else if s.value.toNat > Config.valueMax then .next (s.encFail .rangeValue)
      else if resolveAddr row s.chan.toNat > Config.addrMax then .next (s.encFail .rangeOffset)
      else
        .next (s.emit 0x06 (s.slave.setWidth 8) (BitVec.ofNat 16 (resolveAddr row s.chan.toNat))
          (s.value.setWidth 16))

end Sys2Proof.Machine
end

