-- ==== Sys2Proof/Machine/RegisterMap.lean ====
section
/-! DEFINITION. RESOLVE and BIND_CHAN (42_register_map.md). -/

namespace Sys2Proof.Machine

/-- RESOLVE (R91). A symbol index that names no symbol is no legal command (R53; log 9). -/
def execResolve (sym : BitVec 4) (s : State) : Result :=
  match symtab sym s.spsel with
  | none => illegalWord s
  | some row =>
    whenNotFaulted s <|
      if row.chScoped = true ∧ s.lock = false then .next (s.raise .contract)
      else if resolveAddr row s.chan.toNat > Config.addrMax then .next (s.raise .rangeOffset)
      else
        .next { s with
          resAddr := BitVec.ofNat 32 (resolveAddr row s.chan.toNat)
          resLen := BitVec.ofNat 32 row.len
          resScoped := if row.chScoped then 1 else 0
          err := .ok }

/-- BIND_CHAN (R92): check the channel against the channel count and lock it. -/
def execBindChan (s : State) : Result :=
  whenNotFaulted s <|
    if s.lock then .next (s.raise .locked)
    else if s.chan.toNat < 1 ∨ s.chan.toNat > s.chcount.toNat then .next (s.raise .rangeChannel)
    else .next { s with lock := true, err := .ok }

end Sys2Proof.Machine
end

