-- ==== Sys2Proof/WellFormed.lean ====
section
/-! DEFINITION. Which instruction terms stand for an encoding. -/

namespace Sys2Proof

open Sys2Proof.Machine

/-- The one check of R53 on an instruction's operands. Every CH bit and every field of a wire frame is admitted (log 8: a
frame whose checksum byte is wrong is still a frame on the wire, and the validator's to reject). -/
def Instr.wellFormed : Instr → Bool
  | .encReadSym sym => symOk sym
  | .encWriteSym sym => symOk sym
  | .resolve sym => symOk sym
  | .nop => true
  | .encRead _ => true
  | .encWrite _ => true
  | .bindChan => true
  | .decode => true
  | .decodeTemp => true
  | .decodePstate => true
  | .lrcCheck => true
  | .softReset => true
  | .fc03ReadHolding _ _ _ _ => true
  | .fc06WriteSingle _ _ _ _ => true

end Sys2Proof
end

