-- ==== Sys2Proof/Decode.lean ====
section
/-! DEFINITION. The two encodings (30_encoding.md): the decoder, total on every word and every line of bytes, and the
encoder. A word or line that is no instruction decodes to none. -/

namespace Sys2Proof

open Sys2Proof.Machine

/-- What the decoder reads: a command word (R51) or a line of characters (R55). -/
inductive Code where
  | command (w : Word)
  | line (text : List Byte)
deriving DecidableEq, Repr

/-- OP, bits [3:0] (R51). -/
def opField (w : Word) : BitVec 4 := w.extractLsb' 0 4

/-- SYM, bits [7:4] (R51). -/
def symField (w : Word) : BitVec 4 := w.extractLsb' 4 4

/-- CH, bit [8] (R51). -/
def chField (w : Word) : Bool := w.getLsbD 8

/-- RSV, bits [31:9] (R51). -/
def rsvField (w : Word) : BitVec 23 := w.extractLsb' 9 23

/-- An opcode that takes no field: SYM and CH must be 0 (R53). -/
def plainForm (w : Word) (i : Instr) : Option Instr :=
  if symField w = 0 ∧ chField w = false then some i else none

/-- ENC_READ and ENC_WRITE: CH is free, SYM must be 0 (R53). -/
def chForm (w : Word) (f : Bool → Instr) : Option Instr :=
  if symField w = 0 then some (f (chField w)) else none

/-- The symbol opcodes: SYM ≤ 12, CH must be 0 (R53). -/
def symForm (w : Word) (f : BitVec 4 → Instr) : Option Instr :=
  if symOk (symField w) = true ∧ chField w = false then some (f (symField w)) else none

/-- R52, R53: every 32-bit word is exactly one legal command or illegal (none). -/
def decodeCommand (w : Word) : Option Instr :=
  if rsvField w ≠ 0 then none else
  match (opField w).toNat with
  | 0x0 => plainForm w .nop
  | 0x1 => chForm w .encRead
  | 0x2 => chForm w .encWrite
  | 0x3 => symForm w .encReadSym
  | 0x4 => symForm w .encWriteSym
  | 0x5 => symForm w .resolve
  | 0x6 => plainForm w .bindChan
  | 0x7 => plainForm w .decode
  | 0x8 => plainForm w .decodeTemp
  | 0x9 => plainForm w .decodePstate
  | 0xA => plainForm w .lrcCheck
  | 0xF => plainForm w .softReset
  | _ => none

/-- R55, R57: a line is a request frame exactly when it is the 17-character text, in the upper case TMAC emits (log 8), of
its own fields, with function code 03 or 06. Any checksum byte is read (log 8). -/
def decodeLine (t : List Byte) : Option Instr :=
  match parse2 t 1, parse2 t 3, parse4 t 5, parse4 t 9, parse2 t 13 with
  | some s, some f, some c, some d, some e =>
    if t = frameText (BitVec.ofNat 8 s) (BitVec.ofNat 8 f) (BitVec.ofNat 16 c) (BitVec.ofNat 16 d) (BitVec.ofNat 8 e) then
      if f = 0x03 then some (.fc03ReadHolding (BitVec.ofNat 8 s) (BitVec.ofNat 16 c) (BitVec.ofNat 16 d) (BitVec.ofNat 8 e))
      else if f = 0x06 then
        some (.fc06WriteSingle (BitVec.ofNat 8 s) (BitVec.ofNat 16 c) (BitVec.ofNat 16 d) (BitVec.ofNat 8 e))
      else none
    else none
  | _, _, _, _, _ => none

/-- The decoder of both encodings. -/
def decode : Code → Option Instr
  | .command w => decodeCommand w
  | .line t => decodeLine t

/-- SYM in its place, bits [7:4]. -/
def symBits (sym : BitVec 4) : Word := sym.setWidth 32 <<< 4

/-- CH in its place, bit [8]. -/
def chBits (ch : Bool) : Word := if ch then 0x100 else 0

/-- The code of an instruction, from the match values of R53 and the layout of R55. -/
def encode : Instr → Code
  | .nop => .command 0x00000000
  | .encRead ch => .command (0x00000001 ||| chBits ch)
  | .encWrite ch => .command (0x00000002 ||| chBits ch)
  | .encReadSym sym => .command (0x00000003 ||| symBits sym)
  | .encWriteSym sym => .command (0x00000004 ||| symBits sym)
  | .resolve sym => .command (0x00000005 ||| symBits sym)
  | .bindChan => .command 0x00000006
  | .decode => .command 0x00000007
  | .decodeTemp => .command 0x00000008
  | .decodePstate => .command 0x00000009
  | .lrcCheck => .command 0x0000000A
  | .softReset => .command 0x0000000F
  | .fc03ReadHolding slave a n e => .line (frameText slave 0x03 a n e)
  | .fc06WriteSingle slave a v e => .line (frameText slave 0x06 a v e)

/-- One row of R53's match/mask table; `symLimited` marks the extra condition SYM ≤ 12. -/
structure CommandRow where
  matchBits : Word
  mask : Word
  symLimited : Bool
deriving DecidableEq, Repr

/-- R53's match/mask table, row by row. -/
def commandTable : List CommandRow :=
  [⟨0x00000000, 0xFFFFFFFF, false⟩, ⟨0x00000001, 0xFFFFFEFF, false⟩, ⟨0x00000002, 0xFFFFFEFF, false⟩,
   ⟨0x00000003, 0xFFFFFF0F, true⟩, ⟨0x00000004, 0xFFFFFF0F, true⟩, ⟨0x00000005, 0xFFFFFF0F, true⟩,
   ⟨0x00000006, 0xFFFFFFFF, false⟩, ⟨0x00000007, 0xFFFFFFFF, false⟩, ⟨0x00000008, 0xFFFFFFFF, false⟩,
   ⟨0x00000009, 0xFFFFFFFF, false⟩, ⟨0x0000000A, 0xFFFFFFFF, false⟩, ⟨0x0000000F, 0xFFFFFFFF, false⟩]

/-- A word matches a row of R53's table. -/
def CommandRow.matches (r : CommandRow) (w : Word) : Bool :=
  w &&& r.mask == r.matchBits && (!r.symLimited || symOk (symField w))

/-- The k bytes of w from its least significant end. -/
def tableBytes (w : Nat) : Nat → List Byte
  | 0 => []
  | k + 1 => BitVec.ofNat 8 w :: tableBytes (w / 256) k

/-- The code of a row's bits, numbered as the host numbers them (log 7): up to 32 bits are a command word; a wider row is
a wire frame, its byte b0 in bits 7..0, b1 in bits 15..8, and so on, each sent as two characters (R55). -/
def codeOfTableWord (nbits w : Nat) : Code :=
  if nbits ≤ 32 then .command (BitVec.ofNat 32 w)
  else .line ([chColon] ++ (tableBytes w 7).flatMap hex2 ++ [chCR, chLF])

/-- The instruction the decoder reads from a row's bits. -/
def decodeTableWord (nbits w : Nat) : Option Instr := decode (codeOfTableWord nbits w)

end Sys2Proof
end

