-- ==== Sys2Proof/Machine/Bus.lean ====
section
/-! DEFINITION. The host register space: which accesses are admitted (R40), what a read returns (R38, R39, R41), what a
write stores (R41), and what the next input is (R15, R25). -/

namespace Sys2Proof.Machine

/-- R38: the word registers in address order, the k-th at offset 4k. -/
def wordRegs : List Reg :=
  [.cmd, .status, .ctrl, .slave, .addr, .value, .chan, .chcount, .resAddr, .resLen, .resScoped, .txLrc, .txLen, .rxLen,
   .rxEcho, .rxPayload, .rxData, .tempInt, .tempFrac, .pstate, .decLen]

/-- R38: the host offset of a word register. -/
def regOffset (r : Reg) : Nat := 4 * wordRegs.idxOf r

/-- The value a host read of a word register returns (R25 to R32): CMD reads 0. -/
def State.readReg (s : State) : Reg → Word
  | .cmd => 0
  | .status => s.statusWord
  | .ctrl => s.ctrlWord
  | .slave => s.slave
  | .addr => s.addr
  | .value => s.value
  | .chan => s.chan
  | .chcount => s.chcount
  | .resAddr => s.resAddr
  | .resLen => s.resLen
  | .resScoped => s.resScoped
  | .txLrc => s.txLrc
  | .txLen => s.txLen
  | .rxLen => s.rxLen
  | .rxEcho => s.rxEcho
  | .rxPayload => s.rxPayload
  | .rxData => s.rxData
  | .tempInt => s.tempInt
  | .tempFrac => s.tempFrac
  | .pstate => s.pstate.code
  | .decLen => s.decLen

/-- R41: what a host write of a word register stores. STATUS and the outputs ignore writes (c), CHAN and CHCOUNT while
LOCK = 1 (d), CTRL stores bits [1:0] (e), any other RW register the full value (f). A write to CMD is a command and never
comes here (log 17). -/
def State.writeReg (s : State) (r : Reg) (v : Word) : State :=
  match r with
  | .ctrl => { s with lrcen := v.getLsbD 0, spsel := v.getLsbD 1 }
  | .slave => { s with slave := v }
  | .addr => { s with addr := v }
  | .value => { s with value := v }
  | .chan => if s.lock then s else { s with chan := v }
  | .chcount => if s.lock then s else { s with chcount := v }
  | .rxLen => { s with rxLen := v }
  | .cmd | .status | .resAddr | .resLen | .resScoped | .txLrc | .txLen | .rxEcho | .rxPayload | .rxData | .tempInt
  | .tempFrac | .pstate | .decLen => s

/-- What an admitted access reaches (R40). -/
inductive Target where
  | reg (r : Reg)
  | byte (b : Buf) (i : Nat)
  | reserved
deriving DecidableEq, Repr

/-- The last offset of the host register space (R37). -/
abbrev lastOffset : Nat := 0x1FF

/-- R40: what a 32-bit access at an offset reaches; none if it is not admitted (log 5). -/
def wordTarget (rxMax off : Nat) : Option Target :=
  if off % 4 ≠ 0 ∨ off > lastOffset then none
  else
    match wordRegs[off / 4]? with
    | some r => some (.reg r)
    | none => if (bufferAt rxMax off).isSome then none else some .reserved

/-- R40: what an 8-bit access at an offset reaches; none if it is not admitted (log 5). -/
def byteTarget (rxMax off : Nat) : Option Target :=
  match bufferAt rxMax off with
  | some (b, i) => some (.byte b i)
  | none => if off < decstrBase ∨ off > lastOffset then none else some .reserved

/-- R40: no 16-bit access is admitted. -/
def target (rxMax : Nat) (w : Width) (off : Nat) : Option Target :=
  match w with
  | .w8 => byteTarget rxMax off
  | .w16 => none
  | .w32 => wordTarget rxMax off

/-- A buffer byte as a host read sees it: none where the spec leaves it unspecified, which is a never-written byte (R35,
U9), DECSTR at or above DECLEN (R31, U10) and TXBUF while TXLEN = 0 (U11; log 15). -/
def State.hostByte (s : State) (b : Buf) (i : Nat) : Option Byte :=
  match b with
  | .decstr => if i < s.decLen.toNat then Memory.read s.mem (decstrBase + i) else none
  | .txbuf => if s.txLen = 0 then none else Memory.read s.mem (txbufBase + i)
  | .rxbuf => Memory.read s.mem (rxbufBase + i)

/-- Give the host the data of a read. -/
def State.returnData (s : State) (v : Word) : State := { s with readData := v }

/-- A host read of a buffer byte: its value, or a fresh free byte where it is unspecified (log 3). -/
def State.readByte (s : State) (b : Buf) (i : Nat) : State :=
  match s.hostByte b i with
  | some v => s.returnData (v.setWidth 32)
  | none => { s.returnData ((Config.unspecifiedByte s.freeCount).setWidth 32) with freeCount := s.freeCount + 1 }

/-- R39, R40, R41: a host read. -/
def busRead (w : Width) (off : Nat) (s : State) : Result :=
  match target s.rxMax w off with
  | some (.reg r) => .next (s.returnData (s.readReg r))
  | some (.byte b i) => .next (s.readByte b i)
  | some .reserved => .next (s.returnData 0)
  | none => .fault .busError

/-- R39, R40, R41: a 32-bit host write that is not a command. -/
def busWrite32 (off : Nat) (v : Word) (s : State) : Result :=
  match target s.rxMax .w32 off with
  | some (.reg r) => .next (s.writeReg r v)
  | some (.byte _ _) => .next s
  | some .reserved => .next s
  | none => .fault .busError

/-- R33, R34, R39, R40, R41: an 8-bit host write. Only RXBUF stores it. -/
def busWrite8 (off : Nat) (v : Byte) (s : State) : Result :=
  match target s.rxMax .w8 off with
  | some (.byte .rxbuf i) => .next { s with mem := Memory.write s.mem (rxbufBase + i) v }
  | some (.byte _ _) => .next s
  | some (.reg _) => .next s
  | some .reserved => .next s
  | none => .fault .busError

/-- Run the rest only if the first part went through. -/
def Result.andThen (r : Result) (k : State → Result) : Result :=
  match r with
  | .next t => k t
  | .fault f => .fault f
  | .refused q => .refused q

/-- `WRB RXBUF[i], c` for the characters of a text, from index i on (R62). -/
def storeRx : Nat → List Byte → State → Result
  | _, [], s => .next s
  | i, c :: rest, s => Result.andThen (busWrite8 (rxbufBase + i) c s) (storeRx (i + 1) rest)

/-- R34, R62: the host loads a received line: the writes of LOADRX in order, the bytes and then RXLEN.
A length of 2^32 or more, on which R61 and R62 are silent, is stored modulo 2^32 (log 24). -/
def loadLine (text : List Byte) (s : State) : Result :=
  Result.andThen (storeRx 0 text s) (busWrite32 (regOffset .rxLen) (BitVec.ofNat 32 text.length))

/-- One input that is not a command and not a wire frame (R15). -/
def hostAccess (op : HostOp) (s : State) : Result :=
  match op with
  | .line text => loadLine text s
  | .read w off => busRead w off s
  | .write8 off v => busWrite8 off v s
  | .write16 _ _ => .fault .busError
  | .write32 off v => busWrite32 off v s
  | .resetInput => .next s.resetAll

/-- What the next input asks for. -/
inductive Fetched where
  /-- A legal command word or a wire frame. -/
  | instr (i : Instr)
  /-- A word written to CMD that is not legal (R100). -/
  | illegal
  /-- Anything else: a plain access, a line that is no request frame, the reset input. -/
  | access
deriving DecidableEq, Repr

/-- R15, R25, R51: decode the next input. A 32-bit write to CMD is one command. -/
def fetch (op : HostOp) : Fetched :=
  match op with
  | .write32 off v =>
    if off = regOffset .cmd then
      match decode (.command v) with
      | some i => .instr i
      | none => .illegal
    else .access
  | .line text =>
    match decode (.line text) with
    | some i => .instr i
    | none => .access
  | .read _ _ => .access
  | .write8 _ _ => .access
  | .write16 _ _ => .access
  | .resetInput => .access

end Sys2Proof.Machine
end

