-- ==== Sys2Proof/Machine/WireFrame.lean ====
section
/-! DEFINITION. The two wire frames (R55, R57). TMAC runs no wire frame as a command: it emits frames (the ENC_* commands)
and reads lines the host has loaded. So the effect of a frame that reaches TMAC over the wire is that the host stores its
17 characters in RXBUF and its length in RXLEN (R34, R62 LOADRX, R121; log 6). This is no command: ERR is not written,
and it happens while FAULT = 1 too (R105). -/

namespace Sys2Proof.Machine

/-- FC03_READ_HOLDING: the line `:AA03CCCCDDDDEE<CR><LF>` is loaded. -/
def execFc03ReadHolding (slave : Byte) (addr count : Half) (lrc : Byte) (s : State) : Result :=
  loadLine (frameText slave 0x03 addr count lrc) s

/-- FC06_WRITE_SINGLE: the line `:AA06CCCCDDDDEE<CR><LF>` is loaded. -/
def execFc06WriteSingle (slave : Byte) (addr value : Half) (lrc : Byte) (s : State) : Result :=
  loadLine (frameText slave 0x06 addr value lrc) s

end Sys2Proof.Machine
end

