-- ==== Sys2Proof/Machine/Dispatch.lean ====
section
/-! DEFINITION. One arm per instruction. -/

namespace Sys2Proof.Machine

def exec (i : Instr) (s : State) : Host.Outcome State Fault Refusal :=
  match i with
  | .nop => Sys2Proof.Machine.execNop s
  | .encRead ch => Sys2Proof.Machine.execEncRead ch s
  | .encWrite ch => Sys2Proof.Machine.execEncWrite ch s
  | .encReadSym sym => Sys2Proof.Machine.execEncReadSym sym s
  | .encWriteSym sym => Sys2Proof.Machine.execEncWriteSym sym s
  | .resolve sym => Sys2Proof.Machine.execResolve sym s
  | .bindChan => Sys2Proof.Machine.execBindChan s
  | .decode => Sys2Proof.Machine.execDecode s
  | .decodeTemp => Sys2Proof.Machine.execDecodeTemp s
  | .decodePstate => Sys2Proof.Machine.execDecodePstate s
  | .lrcCheck => Sys2Proof.Machine.execLrcCheck s
  | .softReset => Sys2Proof.Machine.execSoftReset s
  | .fc03ReadHolding slave addr count lrc => Sys2Proof.Machine.execFc03ReadHolding slave addr count lrc s
  | .fc06WriteSingle slave addr value lrc => Sys2Proof.Machine.execFc06WriteSingle slave addr value lrc s

end Sys2Proof.Machine
end

