-- ==== Sys2Proof/Machine/HostProgram.lean ====
section
/-! DEFINITION. The host-program syntax and its pseudo-instructions, expanded into host transactions (R61, R62). EXPECT is
an assertion about state and no transaction. -/

namespace Sys2Proof.Machine

/-- One line of a host program (R61, R62). -/
inductive ProgLine where
  | wr (r : Reg) (v : Word)
  | rd (r : Reg)
  | wrb (b : Buf) (i : Nat) (v : Byte)
  | rdb (b : Buf) (i : Nat)
  | command (i : Instr)
  | loadRx (text : List Byte)
  | drainTx
  | bind (ch count : Word)
deriving DecidableEq, Repr

/-- `WRB RXBUF[i], c` for the characters of a text, from index i on (R62). -/
def loadRxBytes : Nat → List Byte → List HostOp
  | _, [] => []
  | i, c :: rest => .write8 (rxbufBase + i) c :: loadRxBytes (i + 1) rest

/-- R62: the expansion of LOADRX (a length of 2^32 or more: log 24). -/
def loadRxOps (text : List Byte) : List HostOp :=
  loadRxBytes 0 text ++ [.write32 (regOffset .rxLen) (BitVec.ofNat 32 text.length)]

/-- R61: the transaction of a command, and of a wire frame the line that arrives. -/
def codeOp : Code → HostOp
  | .command w => .write32 (regOffset .cmd) w
  | .line text => .line text

/-- R61, R62: the transactions of a line. DRAINTX reads as many bytes as TXLEN holds when it is issued: `txlen`. -/
def expand (txlen : Nat) : ProgLine → List HostOp
  | .wr r v => [.write32 (regOffset r) v]
  | .rd r => [.read .w32 (regOffset r)]
  | .wrb b i v => [.write8 (bufBase b + i) v]
  | .rdb b i => [.read .w8 (bufBase b + i)]
  | .command i => [codeOp (encode i)]
  | .loadRx text => loadRxOps text
  | .drainTx => .read .w32 (regOffset .txLen) :: (List.range txlen).map fun i => .read .w8 (txbufBase + i)
  | .bind ch count =>
    [.write32 (regOffset .chcount) count, .write32 (regOffset .chan) ch, codeOp (encode .bindChan)]

end Sys2Proof.Machine
end

