-- ==== Sys2Proof/Machine/Step.lean ====
section
/-! DEFINITION. The step (R15): the next input is taken from `pending` and runs to completion; with nothing pending TMAC is
idle (R110). -/

namespace Sys2Proof.Machine

/-- One step. A command or wire frame runs as `exec` of the decoded instruction on the state whose `pending` has lost it. -/
def step (s : State) : Host.Outcome State Fault Refusal :=
  match s.pending with
  | [] => .next s
  | op :: rest =>
    match fetch op with
    | .instr i => exec i { s with pending := rest }
    | .illegal => illegalWord { s with pending := rest }
    | .access => hostAccess op { s with pending := rest }

/-- The state in which the next step runs the instruction of a table row's bits: the write to CMD, or the line, that
carries it stands first among the pending inputs (logs 1, 7). -/
def State.withFetchWord (s : State) (nbits w : Nat) : State :=
  { s with pending := codeOp (codeOfTableWord nbits w) :: s.pending }

end Sys2Proof.Machine
end

