-- ==== Sys2Proof/Safety.lean ====
section
/-! DEFINITION. The terms that claims use: the invariant of the machine, and the rules of the commands written as relations
between a state and an outcome, in the spec's own order and numbers and not by the machine's functions. -/

namespace Sys2Proof.Machine

/-- Every cell of the memory is a byte of DECSTR, TXBUF or RXBUF (R38). -/
def Memory.inBuffers (rxMax : Nat) (m : List Host.Cell) : Bool := m.all fun c => (bufferAt rxMax c.1).isSome

/-- Every byte outside the n bytes from offset a on reads as before. -/
def Memory.sameOutside (a n : Nat) (m m' : List Host.Cell) : Prop :=
  ∀ x, x < a ∨ a + n ≤ x → Memory.read m' x = Memory.read m x

/-- The frame that TXLEN = 17 announces stands in TXBUF, and TX_LRC is its checksum (R29, R33, R68). -/
def State.holdsFrame (s : State) : Prop :=
  ∃ fc slave a d, (fc = 0x03 ∨ fc = 0x06) ∧ Memory.readBytes s.mem txbufBase 17 = some (requestText fc slave a d) ∧
    s.txLrc = (lrc (frameBytes slave fc a d)).setWidth 32

/-- The temperature outputs are those of one payload (R31, R82). -/
def State.holdsTemp (s : State) : Prop :=
  ∃ p, p ≤ 0xFFFF ∧ s.tempInt.toNat = p / 10 ∧ s.tempFrac.toNat = p % 10 ∧ s.shortv = decide (p < 10) ∧
    s.decLen.toNat = (tempText p).length ∧ Memory.readBytes s.mem decstrBase s.decLen.toNat = some (tempText p)

/-- R8, U17: the parameter RXMAX of this TMAC is one that a TMAC may have. -/
def State.rxMaxValid (s : State) : Prop := Config.rxMaxLeast ≤ s.rxMax

/-- What every reachable state meets. -/
structure State.Inv (s : State) : Prop where
  /-- R8: RXMAX is at least 27. -/
  rxMax_valid : s.rxMaxValid
  /-- The memory is canonical and lists buffer bytes only. -/
  mem_wf : Memory.wf s.mem
  mem_in : Memory.inBuffers s.rxMax s.mem = true
  /-- R90, R92: LOCK = 1 means a validated channel. -/
  lock_valid : s.lock = true → 1 ≤ s.chan.toNat ∧ s.chan.toNat ≤ s.chcount.toNat
  /-- R105: FAULT = 1 exactly when the last command reported E_CONTRACT or was refused for it. -/
  fault_err : s.fault = true ↔ s.err = .contract ∨ s.err = .faulted
  /-- R29: TXLEN is 0, or 17 and a frame is held. -/
  tx_frame : s.txLen = 0 ∨ s.txLen = 17 ∧ s.holdsFrame
  /-- R28, R29, R30: the bits above those used read as 0. -/
  txLrc_le : s.txLrc.toNat ≤ 0xFF
  resAddr_le : s.resAddr.toNat ≤ 0xFFFF
  resLen_le : s.resLen.toNat ≤ 0xFFFF
  resScoped_le : s.resScoped.toNat ≤ 1
  rxEcho_le : s.rxEcho.toNat ≤ 0xFFFF
  rxPayload_le : s.rxPayload.toNat ≤ 0xFFFF
  rxData_le : s.rxData.toNat ≤ 0xFFFF
  /-- R31: no temperature yet, or that of one payload. -/
  temp_valid : s.decLen = 0 ∧ s.tempInt = 0 ∧ s.tempFrac = 0 ∧ s.shortv = false ∨ s.holdsTemp

/-- Every byte that a decode command would read has been written (R35, R115). -/
def State.rxReadable (s : State) : Prop :=
  s.rxLen.toNat ≤ s.rxMax → ∀ i, i < s.rxLen.toNat → (Memory.read s.mem (rxbufBase + i)).isSome = true

/-! ## The Register Map as a function (R85, R87) -/

/-- The base address column of R85. -/
def mapBase (sym : Nat) (spsel : Bool) : Nat :=
  match sym with
  | 0 => 0x0130
  | 1 => 0x0170
  | 2 => if spsel then 0x0173 else 0x0171
  | 3 => 0x0178
  | 4 => 0x017B
  | 5 => 0x017C
  | 6 => 0x0180
  | 7 => 0x0160
  | 8 => 0x0161
  | 9 => 0x0162
  | 10 => 0x0163
  | 11 => 0x0164
  | _ => 0x0165

/-- The length column of R85: 4 for Temperature, else 1. -/
def mapLen (sym : Nat) : Nat := if sym = 1 then 4 else 1

/-- The channel-scoped column of R85: every symbol but ChannelCount. -/
def mapScoped (sym : Nat) : Bool := sym != 0

/-- R88: the absolute address of a symbol on channel c. -/
def mapAddr (sym : Nat) (spsel : Bool) (c : Nat) : Nat :=
  if mapScoped sym then mapBase sym spsel + 0x0400 * (c - 1) else mapBase sym spsel

/-! ## The rules of the commands -/

/-- R70, R90, R92: a bound channel is at least 1. Part of `State.Inv`; choff is the spec's only where it holds (log 10). -/
def State.channelValid (s : State) : Prop := s.lock = true → 1 ≤ s.chan.toNat

/-- R103 step 1, R105: refused while FAULT = 1; only ERR changes. -/
def RefusedWhileFaulted (s : State) (r : Result) : Prop :=
  s.fault = true → r = .next { s with err := .faulted }

/-- R69: the failure path of an ENC_* command. -/
def EncFails (e : ErrCode) (s : State) (r : Result) : Prop :=
  r = .next { s with err := e, txLen := 0, fault := s.fault || decide (e = .contract) }

/-- R68: one frame is emitted: its 17 characters stand in TXBUF, TXLEN, TX_LRC and ERR are written, nothing else changes. -/
def EmitsFrame (fc slave : Byte) (a d : Half) (s : State) (r : Result) : Prop :=
  ∃ t, r = .next t ∧
    t = { s with mem := t.mem, txLen := 17, txLrc := (lrc (frameBytes slave fc a d)).setWidth 32, err := .ok } ∧
    Memory.readBytes t.mem txbufBase 17 = some (requestText fc slave a d) ∧
    Memory.sameOutside txbufBase 17 s.mem t.mem

/-- R71, R72: the raw encode commands, `A` being the address after the channel offset. -/
def RawEncodeRule (fc : Byte) (ch : Bool) (s : State) (r : Result) : Prop :=
  RefusedWhileFaulted s r ∧
  (s.fault = false →
    (ch = true → s.lock = false → EncFails .contract s r) ∧
    ((ch = true → s.lock = true) →
      (0xFF < s.slave.toNat → EncFails .rangeSlave s r) ∧
      (s.slave.toNat ≤ 0xFF →
        (0xFFFF < s.addr.toNat → EncFails .rangeAddr s r) ∧
        (s.addr.toNat ≤ 0xFFFF →
          (0xFFFF < s.value.toNat → EncFails .rangeValue s r) ∧
          (s.value.toNat ≤ 0xFFFF → ∀ A, A = s.addr.toNat + (if ch then 0x0400 * (s.chan.toNat - 1) else 0) →
            (0xFFFF < A → EncFails .rangeOffset s r) ∧
            (A ≤ 0xFFFF →
              EmitsFrame fc (BitVec.ofNat 8 s.slave.toNat) (BitVec.ofNat 16 A) (BitVec.ofNat 16 s.value.toNat) s r))))))

/-- R73, R74: the symbolic encode commands. `limit` says whether VALUE is checked, `D` is the DDDD field. -/
def SymEncodeRule (fc : Byte) (sym : Nat) (limit : Bool) (D : Nat) (s : State) (r : Result) : Prop :=
  RefusedWhileFaulted s r ∧
  (s.fault = false →
    (mapScoped sym = true → s.lock = false → EncFails .contract s r) ∧
    ((mapScoped sym = true → s.lock = true) →
      (0xFF < s.slave.toNat → EncFails .rangeSlave s r) ∧
      (s.slave.toNat ≤ 0xFF →
        (limit = true → 0xFFFF < D → EncFails .rangeValue s r) ∧
        ((limit = true → D ≤ 0xFFFF) → ∀ A, A = mapAddr sym s.spsel s.chan.toNat →
          (0xFFFF < A → EncFails .rangeOffset s r) ∧
          (A ≤ 0xFFFF → EmitsFrame fc (BitVec.ofNat 8 s.slave.toNat) (BitVec.ofNat 16 A) (BitVec.ofNat 16 D) s r)))))

/-- R80: the failure path of the decode commands and of LRC_CHECK. -/
def RxFails (e : ErrCode) (s : State) (r : Result) : Prop := r = .next { s with err := e, lrcok := false }

/-- R80: the frame checks E_SOF, E_ODD, E_FRAMEHEX, E_LRC of a line, in order. -/
def FrameChecks (L : List Byte) (s : State) (r : Result) : Prop :=
  (L[0]? ≠ some 0x3A → RxFails .sof s r) ∧
  (L[0]? = some 0x3A →
    ((L.length - 1) % 2 ≠ 0 → RxFails .odd s r) ∧
    ((L.length - 1) % 2 = 0 →
      ((∃ c ∈ L.tail, hexVal c = none) → RxFails .frameHex s r) ∧
      ((∀ c ∈ L.tail, hexVal c ≠ none) → pairSum L % 256 ≠ 0 → RxFails .lrc s r)))

/-- R80: the state after a successful decode_line of line L with payload p. -/
def State.decoded (s : State) (L : List Byte) (p : Nat) : State :=
  { s with
    rxPayload := BitVec.ofNat 32 p
    rxEcho := match parse4 L 5 with
      | some e => BitVec.ofNat 32 e
      | none => s.rxEcho
    ev := (parse4 L 5).isSome
    rxData := match parse4 L 9 with
      | some d => if 13 ≤ L.length then BitVec.ofNat 32 d else s.rxData
      | none => s.rxData
    dv := decide (13 ≤ L.length) && (parse4 L 9).isSome
    lrcok := frameOk L
    err := .ok }

/-- R80: a decode command. `good L p t` says what the state t is after a successful decode of line L with payload p. -/
def DecodeLineRule (good : List Byte → Nat → State → Prop) (s : State) (r : Result) : Prop :=
  RefusedWhileFaulted s r ∧
  (s.fault = false →
    (s.rxMax < s.rxLen.toNat → RxFails .overlong s r) ∧
    (s.rxLen.toNat ≤ s.rxMax → ∀ B, Memory.readBytes s.mem rxbufBase s.rxLen.toNat = some B → ∀ L, L = stripEol B →
      (L.length = 0 → RxFails .empty s r) ∧
      (1 ≤ L.length → L.length < 11 → RxFails .short s r) ∧
      (11 ≤ L.length → parse4 L 7 = none → RxFails .nonHex s r) ∧
      (∀ p, 11 ≤ L.length → parse4 L 7 = some p →
        (s.lrcen = true → FrameChecks L s r) ∧
        ((s.lrcen = true → frameOk L = true) → ∃ t, r = .next t ∧ good L p t))))

/-- R84: LRC_CHECK. -/
def LrcCheckRule (s : State) (r : Result) : Prop :=
  RefusedWhileFaulted s r ∧
  (s.fault = false →
    (s.rxMax < s.rxLen.toNat → RxFails .overlong s r) ∧
    (s.rxLen.toNat ≤ s.rxMax → ∀ B, Memory.readBytes s.mem rxbufBase s.rxLen.toNat = some B → ∀ L, L = stripEol B →
      (L.length = 0 → RxFails .empty s r) ∧
      (1 ≤ L.length → L.length < 3 → RxFails .short s r) ∧
      (3 ≤ L.length → FrameChecks L s r) ∧
      (frameOk L = true → r = .next { s with lrcok := true, err := .ok })))

/-- The decimal digits of k as characters, by the library's own conversion (R82 `dec`). -/
def decimalText (k : Nat) : List Byte := (Nat.toDigits 10 k).map fun c => BitVec.ofNat 8 c.toNat

/-- The commands of R52: everything but the two wire frames. -/
def isCommand : Instr → Bool
  | .fc03ReadHolding _ _ _ _ => false
  | .fc06WriteSingle _ _ _ _ => false
  | _ => true

/-- The ENC_* commands. -/
def isEncode : Instr → Bool
  | .encRead _ | .encWrite _ | .encReadSym _ | .encWriteSym _ => true
  | _ => false

/-- DECODE* and LRC_CHECK: the commands that read the received line. -/
def readsLine : Instr → Bool
  | .decode | .decodeTemp | .decodePstate | .lrcCheck => true
  | _ => false

/-- The input is the reset input or the command word of SOFT_RESET. -/
def isReset (op : HostOp) : Bool := op == .resetInput || op == .write32 0x000 0x0000000F

end Sys2Proof.Machine
end

