-- ==== Sys2Proof/Certificates/Slice0/Obligations.lean ====
section
/-! DEFINITION. The statements for the provers. Each docstring names the rule of spec/ that the statement formalises; a
statement that rests on a choice of the model names the log entry. -/

open Sys2Proof Sys2Proof.Machine

/-! ## Encodings -/

/-- O1. Decoding the code of a well-formed instruction gives it back, every operand included (R51, R53, R55). -/
def Obligations.DecodeInvertsEncode : Prop :=
  ∀ i : Instr, i.wellFormed = true → decode (encode i) = some i

/-- O2. Every command word and every line has at most one reading: what the decoder reads is well-formed and encodes to
exactly that word or line (R53; the upper-case text of a frame is log 8). -/
def Obligations.EncodeInvertsDecode : Prop :=
  ∀ (c : Code) (i : Instr), decode c = some i → i.wellFormed = true ∧ encode i = c

/-- O3. R53 and R100: a word is a legal command exactly when the five conditions hold; exactly then it matches a row of the
match/mask table, and only one; a word that is not legal changes only ERR. -/
def Obligations.CommandWordLegality : Prop :=
  ∀ w : Word,
    ((∃ i, decode (.command w) = some i) ↔
      ¬(0xB ≤ (opField w).toNat ∧ (opField w).toNat ≤ 0xE) ∧
      (rsvField w).toNat = 0 ∧
      (chField w = true → (opField w).toNat = 1 ∨ (opField w).toNat = 2) ∧
      ((symField w).toNat ≠ 0 → 3 ≤ (opField w).toNat ∧ (opField w).toNat ≤ 5) ∧
      (3 ≤ (opField w).toNat → (opField w).toNat ≤ 5 → (symField w).toNat ≤ 12)) ∧
    ((∃ i, decode (.command w) = some i) ↔ ∃ r ∈ commandTable, r.matches w = true) ∧
    (∀ r ∈ commandTable, ∀ r' ∈ commandTable, r.matches w = true → r'.matches w = true → r = r') ∧
    (decode (.command w) = none → ∀ (s : State) (rest : List HostOp), s.pending = .write32 0x000 w :: rest →
      step s = .next { s with pending := rest, err := if s.fault then .faulted else .illegal })

/-- O4. Words and lines written out from the encodings of R51, R53 and R55 decode to the instructions they stand for. -/
def Obligations.WrittenOutWordsDecode : Prop :=
  decode (.command 0x00000000) = some .nop ∧
  decode (.command 0x00000101) = some (.encRead true) ∧
  decode (.command 0x00000002) = some (.encWrite false) ∧
  decode (.command 0x00000013) = some (.encReadSym 1) ∧
  decode (.command 0x000000B4) = some (.encWriteSym 11) ∧
  decode (.command 0x000000C5) = some (.resolve 12) ∧
  decode (.command 0x0000000A) = some .lrcCheck ∧
  decode (.command 0x000000D5) = none ∧
  decode (.line [0x3A, 0x30, 0x32, 0x30, 0x33, 0x30, 0x31, 0x33, 0x30, 0x30, 0x30, 0x30, 0x31, 0x43, 0x39, 0x0D, 0x0A]) =
    some (.fc03ReadHolding 0x02 0x0130 0x0001 0xC9) ∧
  decode (.line [0x3A, 0x30, 0x32, 0x30, 0x36, 0x30, 0x31, 0x36, 0x33, 0x30, 0x30, 0x36, 0x34, 0x33, 0x30, 0x0D, 0x0A]) =
    some (.fc06WriteSingle 0x02 0x0163 0x0064 0x30)

/-- O5. R15, R25: the step runs the instruction that the first pending input decodes to, on the state without that input;
with nothing pending it changes nothing; `withFetchWord` puts an instruction first (log 1). -/
def Obligations.StepRunsDecodedInput : Prop :=
  (∀ (s : State) (w : Word) (rest : List HostOp) (i : Instr), s.pending = .write32 0x000 w :: rest →
    decode (.command w) = some i → step s = exec i { s with pending := rest }) ∧
  (∀ (s : State) (text : List Byte) (rest : List HostOp) (i : Instr), s.pending = .line text :: rest →
    decode (.line text) = some i → step s = exec i { s with pending := rest }) ∧
  (∀ s : State, s.pending = [] → step s = .next s) ∧
  (∀ (s : State) (nbits w : Nat) (i : Instr), decodeTableWord nbits w = some i →
    step (s.withFetchWord nbits w) = exec i s)

/-! ## Characters, checksum, frame text -/

/-- O6. R43, R64, R65, R76, R77: reading two or four characters undoes writing a byte or a 16-bit word, wherever they stand
in a line; the characters written are 0..9 and A..F. -/
def Obligations.HexReadsBackWhatWasWritten : Prop :=
  (∀ (before after : List Byte) (b : Byte), parse2 (before ++ hex2 b ++ after) before.length = some b.toNat) ∧
  (∀ (before after : List Byte) (w : Half), parse4 (before ++ hex4 w ++ after) before.length = some w.toNat) ∧
  (∀ (w : Half), ∀ c ∈ hex4 w, (0x30 ≤ c.toNat ∧ c.toNat ≤ 0x39) ∨ (0x41 ≤ c.toNat ∧ c.toNat ≤ 0x46))

/-- O7. R75: the hex digits and their values, both cases; every other character has none. -/
def Obligations.HexDigitValues : Prop :=
  ∀ (c : Byte) (v : Nat), hexVal c = some v ↔
    (v ≤ 9 ∧ c.toNat = 0x30 + v) ∨ (10 ≤ v ∧ v ≤ 15 ∧ (c.toNat = 0x37 + v ∨ c.toNat = 0x57 + v))

/-- O8. R66: the LRC is the complement plus one of the sum modulo 256, which is (256 - s) mod 256, and 0 when s = 0; a
request frame carries the LRC of its six bytes at index 13. -/
def Obligations.LrcNegatesTheSum : Prop :=
  (∀ (bytes : List Byte) (s : Nat), s = (bytes.map BitVec.toNat).sum % 256 →
    (lrc bytes).toNat = ((s ^^^ 0xFF) + 1) % 256 ∧ (lrc bytes).toNat = (256 - s) % 256 ∧
      (s = 0 → (lrc bytes).toNat = 0)) ∧
  (∀ (fc slave : Byte) (a d : Half), parse2 (requestText fc slave a d) 13 =
    some (lrc [slave, fc, BitVec.ofNat 8 (a.toNat / 256), BitVec.ofNat 8 (a.toNat % 256),
      BitVec.ofNat 8 (d.toNat / 256), BitVec.ofNat 8 (d.toNat % 256)]).toNat)

/-- O9. R67: the bytes of a request frame and their LRC sum to 0 modulo 256, and the validator of R79 accepts the frame. -/
def Obligations.FrameChecksumIsZero : Prop :=
  ∀ (fc slave : Byte) (a d : Half),
    (slave.toNat + fc.toNat + a.toNat / 256 + a.toNat % 256 + d.toNat / 256 + d.toNat % 256 +
      (lrc (frameBytes slave fc a d)).toNat) % 256 = 0 ∧
    frameOk (stripEol (requestText fc slave a d)) = true

/-- O10. R56: the text of a frame is 17 characters, `:`, 14 hex digits and CR LF; its fields stand where R55 puts them. -/
def Obligations.RequestFrameLayout : Prop :=
  ∀ (fc slave : Byte) (a d : Half) (F : List Byte), F = requestText fc slave a d →
    F.length = 17 ∧ F[0]? = some 0x3A ∧
    (∀ k c, 1 ≤ k → k ≤ 14 → F[k]? = some c → hexVal c ≠ none) ∧
    F[15]? = some 0x0D ∧ F[16]? = some 0x0A ∧
    parse2 F 1 = some slave.toNat ∧ parse2 F 3 = some fc.toNat ∧ parse4 F 5 = some a.toNat ∧ parse4 F 9 = some d.toNat ∧
    parse2 F 13 = some (lrc (frameBytes slave fc a d)).toNat

/-! ## The encode commands

`State.channelValid` (a bound channel is at least 1, R92) is the premise under which the spec defines the channel offset
(R70); it is part of the invariant that O48 states. -/

/-- O11. R71: ENC_READ, its words, its errors in their order, and the frame it emits. -/
def Obligations.EncReadFollowsItsRule : Prop :=
  (∀ (w : Word) (ch : Bool), decode (.command w) = some (.encRead ch) ↔ w.toNat = 0x001 + 0x100 * ch.toNat) ∧
  (∀ (ch : Bool) (s : State), s.channelValid → RawEncodeRule 0x03 ch s (exec (.encRead ch) s))

/-- O12. R72: ENC_WRITE, its words, its errors in their order, and the frame it emits. -/
def Obligations.EncWriteFollowsItsRule : Prop :=
  (∀ (w : Word) (ch : Bool), decode (.command w) = some (.encWrite ch) ↔ w.toNat = 0x002 + 0x100 * ch.toNat) ∧
  (∀ (ch : Bool) (s : State), s.channelValid → RawEncodeRule 0x06 ch s (exec (.encWrite ch) s))

/-- O13. R73: ENC_READ_SYM, its words, its errors in their order, and the frame it emits, the count from the table. -/
def Obligations.EncReadSymFollowsItsRule : Prop :=
  (∀ (w : Word) (sym : BitVec 4), decode (.command w) = some (.encReadSym sym) ↔
    w.toNat = 0x003 + 0x010 * sym.toNat ∧ sym.toNat ≤ 12) ∧
  (∀ (sym : BitVec 4) (s : State), s.channelValid → sym.toNat ≤ 12 →
    SymEncodeRule 0x03 sym.toNat false (mapLen sym.toNat) s (exec (.encReadSym sym) s))

/-- O14. R74: ENC_WRITE_SYM, its words, its errors in their order, and the frame it emits, the value from VALUE. -/
def Obligations.EncWriteSymFollowsItsRule : Prop :=
  (∀ (w : Word) (sym : BitVec 4), decode (.command w) = some (.encWriteSym sym) ↔
    w.toNat = 0x004 + 0x010 * sym.toNat ∧ sym.toNat ≤ 12) ∧
  (∀ (sym : BitVec 4) (s : State), s.channelValid → sym.toNat ≤ 12 →
    SymEncodeRule 0x06 sym.toNat true s.value.toNat s (exec (.encWriteSym sym) s))

/-! ## The Register Map commands -/

/-- O15. R91: RESOLVE, its words, its errors and its result; on an error RES_ADDR, RES_LEN and RES_SCOPED are unchanged. -/
def Obligations.ResolveFollowsItsRule : Prop :=
  (∀ (w : Word) (sym : BitVec 4), decode (.command w) = some (.resolve sym) ↔
    w.toNat = 0x005 + 0x010 * sym.toNat ∧ sym.toNat ≤ 12) ∧
  (∀ (sym : BitVec 4) (s : State) (r : Result), s.channelValid → sym.toNat ≤ 12 → r = exec (.resolve sym) s →
    RefusedWhileFaulted s r ∧
    (s.fault = false →
      (mapScoped sym.toNat = true → s.lock = false → r = .next { s with err := .contract, fault := true }) ∧
      ((mapScoped sym.toNat = true → s.lock = true) → ∀ A, A = mapAddr sym.toNat s.spsel s.chan.toNat →
        (0xFFFF < A → r = .next { s with err := .rangeOffset }) ∧
        (A ≤ 0xFFFF → r = .next { s with
          resAddr := BitVec.ofNat 32 A
          resLen := BitVec.ofNat 32 (mapLen sym.toNat)
          resScoped := if mapScoped sym.toNat then 1 else 0
          err := .ok }))))

/-- O16. R89: the channel offset property of `resolve`, and how far the table reaches: every scoped symbol fits on channels
1 to 64 and none on a higher one (R88). -/
def Obligations.ChannelOffsetProperty : Prop :=
  ∀ (sym : BitVec 4) (spsel : Bool) (row : SymRow), symtab sym spsel = some row →
    (∀ c, 1 ≤ c → resolveAddr row c = if row.chScoped then row.base + 0x0400 * (c - 1) else row.base) ∧
    resolveAddr row 1 = row.base ∧
    (row.chScoped = true → resolveAddr row 2 = row.base + 0x0400 ∧ resolveAddr row 3 = row.base + 0x0800 ∧
      resolveAddr row 4 = row.base + 0x0C00) ∧
    (row.chScoped = true → ∀ c, 1 ≤ c → (resolveAddr row c ≤ 0xFFFF ↔ c ≤ 64))

/-- O17. R92: BIND_CHAN, its word, its errors in their order, and the lock. -/
def Obligations.BindChanFollowsItsRule : Prop :=
  (∀ w : Word, decode (.command w) = some .bindChan ↔ w = 0x00000006) ∧
  (∀ (s : State) (r : Result), r = exec .bindChan s →
    RefusedWhileFaulted s r ∧
    (s.fault = false →
      (s.lock = true → r = .next { s with err := .locked }) ∧
      (s.lock = false → s.chan.toNat < 1 ∨ s.chcount.toNat < s.chan.toNat → r = .next { s with err := .rangeChannel }) ∧
      (s.lock = false → 1 ≤ s.chan.toNat → s.chan.toNat ≤ s.chcount.toNat →
        r = .next { s with lock := true, err := .ok })))

/-- O18. R22, R23, R92: while LOCK = 1 no step but a reset changes CHAN, CHCOUNT or LOCK ("immutable thereafter"). -/
def Obligations.LockFreezesTheChannel : Prop :=
  ∀ s t : State, s.lock = true → step s = .next t → (∀ op, s.pending.head? = some op → isReset op = false) →
    t.lock = true ∧ t.chan = s.chan ∧ t.chcount = s.chcount

/-! ## The received line and the decode commands -/

/-- O19. R78: the line a decode command reads is RXBUF[0..RXLEN-1] up to its last character that is neither CR nor LF; an
RXLEN above RXMAX reads no line. -/
def Obligations.ReceivedLineIsStripped : Prop :=
  ∀ s : State,
    (s.rxMax < s.rxLen.toNat → rxLine s = .overlong) ∧
    (s.rxLen.toNat ≤ s.rxMax → ∀ B, Memory.readBytes s.mem rxbufBase s.rxLen.toNat = some B →
      ∃ n, n ≤ B.length ∧ rxLine s = .line (B.take n) ∧
        (∀ k c, n ≤ k → B[k]? = some c → c = 0x0D ∨ c = 0x0A) ∧
        (∀ c, 1 ≤ n → B[n - 1]? = some c → c ≠ 0x0D ∧ c ≠ 0x0A))

/-- O20. R80, R81: DECODE, its word, its errors in their order, and the fields it stores. -/
def Obligations.DecodeFollowsItsRule : Prop :=
  (∀ w : Word, decode (.command w) = some .decode ↔ w = 0x00000007) ∧
  (∀ s : State, DecodeLineRule (fun L p t => t = s.decoded L p) s (exec .decode s))

/-- O21. R82: DECODE_TEMP: as DECODE, and on success the integer part, the tenths digit, SHORTV and the decimal text. -/
def Obligations.DecodeTempFollowsItsRule : Prop :=
  (∀ w : Word, decode (.command w) = some .decodeTemp ↔ w = 0x00000008) ∧
  (∀ s : State, DecodeLineRule (fun L p t => ∃ text : List Byte,
      text = decimalText (p / 10) ++ [0x2E] ++ decimalText (p % 10) ∧ 3 ≤ text.length ∧ text.length ≤ 6 ∧
      t = { s.decoded L p with
        tempInt := BitVec.ofNat 32 (p / 10)
        tempFrac := BitVec.ofNat 32 (p % 10)
        shortv := decide (p < 10)
        decLen := BitVec.ofNat 32 text.length
        mem := t.mem } ∧
      Memory.readBytes t.mem decstrBase text.length = some text ∧
      Memory.sameOutside decstrBase text.length s.mem t.mem) s (exec .decodeTemp s))

/-- O22. R83: DECODE_PSTATE: as DECODE, and on success the classification of the payload. -/
def Obligations.DecodePstateFollowsItsRule : Prop :=
  (∀ w : Word, decode (.command w) = some .decodePstate ↔ w = 0x00000009) ∧
  (∀ s : State, DecodeLineRule (fun L p t =>
      ∃ q, t = { s.decoded L p with pstate := q } ∧ (p = 0 → q = .stop) ∧ (p = 1 → q = .run) ∧ (p = 2 → q = .pause) ∧
        (3 ≤ p → q = .undefined)) s (exec .decodePstate s))

/-- O23. R84: LRC_CHECK, its word, its errors in their order whatever LRCEN says; it succeeds exactly on frame_ok. -/
def Obligations.LrcCheckFollowsItsRule : Prop :=
  (∀ w : Word, decode (.command w) = some .lrcCheck ↔ w = 0x0000000A) ∧
  (∀ s : State, LrcCheckRule s (exec .lrcCheck s)) ∧
  (∀ (s t : State) (B : List Byte), s.fault = false → s.rxLen.toNat ≤ s.rxMax →
    Memory.readBytes s.mem rxbufBase s.rxLen.toNat = some B → exec .lrcCheck s = .next t →
    (t.err = .ok ↔ frameOk (stripEol B) = true))

/-- O24. R27, R80: what LRCEN does. With LRCEN = 1 a decode that succeeds has a valid frame and checksum; with LRCEN = 0 the
only failures are E_OVERLONG, E_EMPTY, E_SHORT and E_NONHEX. -/
def Obligations.LrcenMakesDecodingStrict : Prop :=
  ∀ (s t : State) (i : Instr), i = .decode ∨ i = .decodeTemp ∨ i = .decodePstate → s.fault = false →
    exec i s = .next t →
    (s.lrcen = true → t.err = .ok → t.lrcok = true) ∧
    (s.lrcen = false → t.err = .ok ∨ t.err = .overlong ∨ t.err = .empty ∨ t.err = .short ∨ t.err = .nonHex)

/-- O25. R54, R115: a command that reads the line depends, in one TMAC (one RXMAX), on FAULT, LRCEN, RXLEN and the bytes
below RXLEN only; what else RXBUF or any register holds makes no difference to its outcome. -/
def Obligations.DecodeReadsOnlyTheLine : Prop :=
  ∀ (i : Instr) (s s' : State), readsLine i = true → s'.rxMax = s.rxMax → s'.fault = s.fault → s'.lrcen = s.lrcen →
    s'.rxLen = s.rxLen →
    (∀ k, k < s.rxLen.toNat → Memory.read s'.mem (rxbufBase + k) = Memory.read s.mem (rxbufBase + k)) →
    (∀ t, exec i s = .next t → ∃ t', exec i s' = .next t' ∧ t'.err = t.err ∧
      (s.fault = false → t'.lrcok = t.lrcok) ∧
      (t.err = .ok → i ≠ .lrcCheck → t'.rxPayload = t.rxPayload ∧ t'.ev = t.ev ∧ t'.dv = t.dv ∧
        (t.ev = true → t'.rxEcho = t.rxEcho) ∧ (t.dv = true → t'.rxData = t.rxData)) ∧
      (t.err = .ok → i = .decodeTemp → t'.tempInt = t.tempInt ∧ t'.tempFrac = t.tempFrac ∧ t'.shortv = t.shortv ∧
        t'.decLen = t.decLen) ∧
      (t.err = .ok → i = .decodePstate → t'.pstate = t.pstate)) ∧
    (∀ f, exec i s = .fault f → exec i s' = .fault f)

/-- O26. R35 and U8 of 93_implementation_defined.md: a command that reads a never-written byte below RXLEN stops with a
fault (log 4: every byte below RXLEN counts as read). -/
def Obligations.NeverWrittenByteStopsDecoding : Prop :=
  ∀ (i : Instr) (s : State) (k : Nat), readsLine i = true → s.fault = false → s.rxLen.toNat ≤ s.rxMax →
    k < s.rxLen.toNat → Memory.read s.mem (rxbufBase + k) = none → exec i s = .fault .unwrittenRxByte

/-- O27. The round-trip property of 95_test_vectors.md S9 for ENC_WRITE (O56 is ENC_WRITE_SYM): a write frame that it builds,
echoed and decoded, gives back the address in RX_ECHO and the value in RX_DATA, with either LRCEN. The echo arrives as the
wire frame (log 6). -/
def Obligations.EchoedWriteRoundTrip : Prop :=
  ∀ (ch : Bool) (s : State) (A : Nat), s.rxMaxValid → s.channelValid → s.fault = false → (ch = true → s.lock = true) → s.slave.toNat ≤ 0xFF →
    s.addr.toNat ≤ 0xFFFF → s.value.toNat ≤ 0xFFFF →
    A = s.addr.toNat + (if ch then 0x0400 * (s.chan.toNat - 1) else 0) → A ≤ 0xFFFF →
    ∃ t u v, exec (.encWrite ch) s = .next t ∧
      exec (.fc06WriteSingle (BitVec.ofNat 8 s.slave.toNat) (BitVec.ofNat 16 A) (BitVec.ofNat 16 s.value.toNat)
        (BitVec.ofNat 8 t.txLrc.toNat)) t = .next u ∧
      Memory.readBytes u.mem rxbufBase 17 = Memory.readBytes t.mem txbufBase 17 ∧ u.rxLen = t.txLen ∧
      exec .decode u = .next v ∧ v.err = .ok ∧ v.lrcok = true ∧ v.ev = true ∧ v.dv = true ∧
      v.rxEcho.toNat = A ∧ v.rxData.toNat = s.value.toNat ∧
      v.rxPayload.toNat = (A % 256) * 256 + s.value.toNat / 256

/-- O28. R84, R67: a request frame that reaches TMAC over the wire (log 6) passes LRC_CHECK exactly when its EE is the LRC
of its six bytes; otherwise LRC_CHECK reports E_LRC. -/
def Obligations.WireFramesValidateByChecksum : Prop :=
  ∀ (s : State) (slave : Byte) (a d : Half) (e : Byte), s.rxMaxValid → s.fault = false →
    (∃ t, exec (.fc03ReadHolding slave a d e) s = .next t ∧
      exec .lrcCheck t = .next (if e = lrc (frameBytes slave 0x03 a d)
        then { t with lrcok := true, err := .ok } else { t with lrcok := false, err := .lrc })) ∧
    (∃ t, exec (.fc06WriteSingle slave a d e) s = .next t ∧
      exec .lrcCheck t = .next (if e = lrc (frameBytes slave 0x06 a d)
        then { t with lrcok := true, err := .ok } else { t with lrcok := false, err := .lrc }))

/-- O29. The model's choice (log 6), from R34 and R62: a wire frame that reaches TMAC is loaded as a line: its 17
characters stand in RXBUF, RXLEN is 17, every other byte and register is unchanged, also while FAULT = 1. -/
def Obligations.WireFrameIsLoadedAsLine : Prop :=
  ∀ (s : State) (slave : Byte) (a d : Half) (e : Byte), s.rxMaxValid →
    (∃ t, exec (.fc03ReadHolding slave a d e) s = .next t ∧ t = { s with mem := t.mem, rxLen := 17 } ∧
      Memory.readBytes t.mem rxbufBase 17 = some (frameText slave 0x03 a d e) ∧
      Memory.sameOutside rxbufBase 17 s.mem t.mem) ∧
    (∃ t, exec (.fc06WriteSingle slave a d e) s = .next t ∧ t = { s with mem := t.mem, rxLen := 17 } ∧
      Memory.readBytes t.mem rxbufBase 17 = some (frameText slave 0x06 a d e) ∧
      Memory.sameOutside rxbufBase 17 s.mem t.mem)

/-! ## Control, reset, errors and the sticky fault -/

/-- O30. R98: NOP: its only word is 0; it clears ERR and changes nothing else; it does not clear FAULT; a non-zero word with
OP = 0 is illegal. -/
def Obligations.NopFollowsItsRule : Prop :=
  (∀ w : Word, decode (.command w) = some .nop ↔ w = 0x00000000) ∧
  (∀ w : Word, (opField w).toNat = 0 → w ≠ 0 → decode (.command w) = none) ∧
  (∀ s : State, RefusedWhileFaulted s (exec .nop s) ∧ (s.fault = false → exec .nop s = .next { s with err := .ok }))

/-- O31. R99: SOFT_RESET: its only word is 0xF; it does exactly what the reset input does, accepted while FAULT = 1 too;
STATUS becomes 0; a word with OP = 0xF and any other bit set is illegal, and E_FAULTED while FAULT = 1. -/
def Obligations.SoftResetFollowsItsRule : Prop :=
  (∀ w : Word, decode (.command w) = some .softReset ↔ w = 0x0000000F) ∧
  (∀ s : State, ∃ t, exec .softReset s = .next t ∧ t.statusWord = 0 ∧ t.err = .ok ∧
    (∀ rest, step { s with pending := .write32 0x000 0x0000000F :: rest } = .next { t with pending := rest }) ∧
    (∀ rest, step { s with pending := .resetInput :: rest } = .next { t with pending := rest })) ∧
  (∀ (w : Word) (s : State) (rest : List HostOp), (opField w).toNat = 0xF → w ≠ 0x0000000F →
    s.pending = .write32 0x000 w :: rest →
    step s = .next { s with pending := rest, err := if s.fault then .faulted else .illegal })

/-- O32. R111: what the reset input and SOFT_RESET leave in every register, as the host reads it, and that no buffer byte
is written; State.reset is such a state, and so is the reset state of a TMAC with any other RXMAX. -/
def Obligations.ResetLeavesTheTableOfValues : Prop :=
  ∀ (s t : State) (op : HostOp) (rest : List HostOp),
    (t = State.reset ∨ (∃ rxMax, t = State.resetWith rxMax) ∨ s.pending = op :: rest ∧ isReset op = true ∧ step s = .next t) →
    t.readReg .status = 0x00000000 ∧ t.readReg .ctrl = 0x00000001 ∧
    (∀ r ∈ [Reg.slave, .addr, .value, .chan, .chcount, .resAddr, .resLen, .resScoped, .txLrc, .txLen, .rxLen, .rxEcho,
      .rxPayload, .rxData, .tempInt, .tempFrac, .decLen], t.readReg r = 0) ∧
    t.readReg .pstate = 3 ∧ (∀ x, Memory.read t.mem x = none)

/-- O33. R90, R105: a command that needs a channel-scoped address while LOCK = 0 sets ERR to E_CONTRACT and the sticky
FAULT; an ENC_* command also sets TXLEN to 0; nothing else changes. -/
def Obligations.UnboundChannelIsAContractViolation : Prop :=
  ∀ (s : State) (sym : BitVec 4), s.fault = false → s.lock = false → 1 ≤ sym.toNat → sym.toNat ≤ 12 →
    (∀ i ∈ [Instr.encRead true, .encWrite true, .encReadSym sym, .encWriteSym sym],
      exec i s = .next { s with err := .contract, fault := true, txLen := 0 }) ∧
    exec (.resolve sym) s = .next { s with err := .contract, fault := true }

/-- O34. R103 step 1, R105: while FAULT = 1 every command word but 0x0000000F, legal or not, changes only ERR, to
E_FAULTED. -/
def Obligations.FaultedMachineRefusesCommands : Prop :=
  (∀ (s : State) (i : Instr), s.fault = true → isCommand i = true → i ≠ .softReset →
    exec i s = .next { s with err := .faulted }) ∧
  (∀ (s : State) (w : Word) (rest : List HostOp), s.fault = true → w ≠ 0x0000000F → s.pending = .write32 0x000 w :: rest →
    step s = .next { s with pending := rest, err := .faulted })

/-- O35. R105: FAULT is cleared only by a reset, and set only by a command that reports E_CONTRACT. -/
def Obligations.FaultIsSticky : Prop :=
  ∀ s t : State, step s = .next t → (∀ op, s.pending.head? = some op → isReset op = false) →
    (s.fault = true → t.fault = true) ∧ (s.fault = false → t.fault = true → t.err = .contract)

/-- O36. R104: a command that reports an error other than E_CONTRACT writes ERR, and TXLEN (0) if it is an ENC_* command or
LRCOK (0) if it reads the line, and nothing else; E_FAULTED and E_ILLEGAL write ERR alone; FAULT is as before, so an error
is not sticky. -/
def Obligations.ErrorsChangeNothingElse : Prop :=
  ∀ (i : Instr) (s t : State), isCommand i = true → exec i s = .next t → t.err ≠ .ok → t.err ≠ .contract →
    t = { s with
      err := t.err
      txLen := if isEncode i = true ∧ t.err ≠ .faulted ∧ t.err ≠ .illegal then 0 else s.txLen
      lrcok := if readsLine i = true ∧ t.err ≠ .faulted then false else s.lrcok }

/-! ## Frames -/

/-- O37. The frame of the ENC_* commands (R68, R69): only ERR, FAULT, TXLEN, TX_LRC and the 17 bytes of TXBUF can change;
on a failure no byte of memory does. -/
def Obligations.EncodeCommandsFrame : Prop :=
  ∀ (i : Instr) (s t : State), isEncode i = true → exec i s = .next t →
    t = { s with err := t.err, fault := t.fault, txLen := t.txLen, txLrc := t.txLrc, mem := t.mem } ∧
    Memory.sameOutside txbufBase 17 s.mem t.mem ∧
    (t.err ≠ .ok → t.txLrc = s.txLrc ∧ ∀ x, Memory.read t.mem x = Memory.read s.mem x)

/-- O38. The frame of the commands that read the line (R80 to R84): DECODE, DECODE_PSTATE and LRC_CHECK store no byte,
DECODE_TEMP stores DECLEN bytes from DECSTR[0] on when it succeeds; each can change only the registers its rule names. -/
def Obligations.LineCommandsFrame : Prop :=
  ∀ s t : State,
    (exec .decode s = .next t →
      t = { s with err := t.err, lrcok := t.lrcok, ev := t.ev, dv := t.dv, rxPayload := t.rxPayload, rxEcho := t.rxEcho,
                   rxData := t.rxData } ∧
      ∀ x, Memory.read t.mem x = Memory.read s.mem x) ∧
    (exec .decodePstate s = .next t →
      t = { s with err := t.err, lrcok := t.lrcok, ev := t.ev, dv := t.dv, rxPayload := t.rxPayload, rxEcho := t.rxEcho,
                   rxData := t.rxData, pstate := t.pstate } ∧
      ∀ x, Memory.read t.mem x = Memory.read s.mem x) ∧
    (exec .decodeTemp s = .next t →
      t = { s with err := t.err, lrcok := t.lrcok, ev := t.ev, dv := t.dv, rxPayload := t.rxPayload, rxEcho := t.rxEcho,
                   rxData := t.rxData, tempInt := t.tempInt, tempFrac := t.tempFrac, shortv := t.shortv,
                   decLen := t.decLen, mem := t.mem } ∧
      Memory.sameOutside decstrBase t.decLen.toNat s.mem t.mem ∧
      (t.err ≠ .ok → ∀ x, Memory.read t.mem x = Memory.read s.mem x)) ∧
    (exec .lrcCheck s = .next t →
      t = { s with err := t.err, lrcok := t.lrcok } ∧ ∀ x, Memory.read t.mem x = Memory.read s.mem x)

/-- O39. The frame of NOP, RESOLVE and BIND_CHAN (R91, R92, R98): only ERR, and FAULT and the three result registers for
RESOLVE, and LOCK for BIND_CHAN; no byte of memory. -/
def Obligations.ControlAndMapCommandsFrame : Prop :=
  ∀ s t : State,
    (exec .nop s = .next t → t = { s with err := t.err } ∧ ∀ x, Memory.read t.mem x = Memory.read s.mem x) ∧
    (exec .bindChan s = .next t →
      t = { s with err := t.err, lock := t.lock } ∧ ∀ x, Memory.read t.mem x = Memory.read s.mem x) ∧
    (∀ sym, exec (.resolve sym) s = .next t →
      t = { s with err := t.err, fault := t.fault, resAddr := t.resAddr, resLen := t.resLen, resScoped := t.resScoped } ∧
      ∀ x, Memory.read t.mem x = Memory.read s.mem x)

/-! ## Host accesses -/

/-- O40. R41 (a): a host read never changes TMAC's state; only the data given to the host and the count of free bytes
(logs 2, 3) and the input consumed change. -/
def Obligations.HostReadsChangeNothing : Prop :=
  ∀ (s t : State) (w : Width) (off : Nat) (rest : List HostOp), s.pending = .read w off :: rest → step s = .next t →
    t = { s with pending := rest, readData := t.readData, freeCount := t.freeCount }

/-- O41. R40: which host accesses complete, and that every other one is a bus error. The extent of the admitted reserved
offsets, and that RXBUF's bytes above 0x1FF are admitted, is log 5; U12 makes the bus error a fault. -/
def Obligations.OnlyAdmittedAccessesComplete : Prop :=
  ∀ (s : State) (off : Nat) (v32 : Word) (v16 : Half) (v8 : Byte) (rest : List HostOp),
    ((∃ t, step { s with pending := .read .w32 off :: rest } = .next t) ↔
      off % 4 = 0 ∧ off ≤ 0x1FF ∧ ¬(0x060 ≤ off ∧ off < 0x068) ∧ ¬(0x080 ≤ off ∧ off < 0x091) ∧
        ¬(0x100 ≤ off ∧ off < 0x100 + s.rxMax)) ∧
    ((∃ t, step { s with pending := .read .w8 off :: rest } = .next t) ↔
      (0x060 ≤ off ∧ off ≤ 0x1FF) ∨ (0x100 ≤ off ∧ off < 0x100 + s.rxMax)) ∧
    ((∃ t, step { s with pending := .write8 off v8 :: rest } = .next t) ↔
      (0x060 ≤ off ∧ off ≤ 0x1FF) ∨ (0x100 ≤ off ∧ off < 0x100 + s.rxMax)) ∧
    (off ≠ 0 → ((∃ t, step { s with pending := .write32 off v32 :: rest } = .next t) ↔
      ∃ t, step { s with pending := .read .w32 off :: rest } = .next t)) ∧
    step { s with pending := .read .w16 off :: rest } = .fault .busError ∧
    step { s with pending := .write16 off v16 :: rest } = .fault .busError ∧
    (∀ w, (¬∃ t, step { s with pending := .read w off :: rest } = .next t) →
      step { s with pending := .read w off :: rest } = .fault .busError) ∧
    ((¬∃ t, step { s with pending := .write8 off v8 :: rest } = .next t) →
      step { s with pending := .write8 off v8 :: rest } = .fault .busError) ∧
    (off ≠ 0 → (¬∃ t, step { s with pending := .write32 off v32 :: rest } = .next t) →
      step { s with pending := .write32 off v32 :: rest } = .fault .busError)

/-- O42. R39: an access to a reserved offset reads 0 and ignores a write, and changes no state (which accesses are admitted
there is log 5). -/
def Obligations.ReservedOffsetsReadZero : Prop :=
  ∀ (s : State) (off : Nat) (v32 : Word) (v8 : Byte) (rest : List HostOp), s.pending = rest → off ≤ 0x1FF →
    bufferAt s.rxMax off = none →
    (off % 4 = 0 → 0x050 < off →
      step { s with pending := .read .w32 off :: rest } = .next { s with readData := 0 } ∧
      step { s with pending := .write32 off v32 :: rest } = .next s) ∧
    (0x060 ≤ off →
      step { s with pending := .read .w8 off :: rest } = .next { s with readData := 0 } ∧
      step { s with pending := .write8 off v8 :: rest } = .next s)

/-- O43. R25 to R32, R38, R101: what a host read of each word register returns; CMD reads 0; the bits of STATUS and CTRL
stand where R26 and R27 put them and the reserved bits read 0; bits [7:0] of STATUS are the number that R101 gives the
error. -/
def Obligations.WordRegistersReadTheirValues : Prop :=
  ∀ (s : State) (rest : List HostOp), s.pending = rest →
    (∀ p ∈ [(0x000, (0 : Word)), (0x00C, s.slave), (0x010, s.addr), (0x014, s.value), (0x018, s.chan), (0x01C, s.chcount),
        (0x020, s.resAddr), (0x024, s.resLen), (0x028, s.resScoped), (0x02C, s.txLrc), (0x030, s.txLen), (0x034, s.rxLen),
        (0x038, s.rxEcho), (0x03C, s.rxPayload), (0x040, s.rxData), (0x044, s.tempInt), (0x048, s.tempFrac),
        (0x050, s.decLen)],
      step { s with pending := .read .w32 p.1 :: rest } = .next { s with readData := p.2 }) ∧
    (∃ v e, step { s with pending := .read .w32 0x004 :: rest } = .next { s with readData := v } ∧
      (s.err, e) ∈ [(ErrCode.ok, 0x00), (.empty, 0x01), (.short, 0x02), (.nonHex, 0x03), (.sof, 0x04), (.odd, 0x05),
        (.frameHex, 0x06), (.lrc, 0x07), (.overlong, 0x08), (.rangeSlave, 0x10), (.rangeAddr, 0x11), (.rangeValue, 0x12),
        (.rangeOffset, 0x13), (.rangeChannel, 0x14), (.illegal, 0x20), (.locked, 0x21), (.faulted, 0x30),
        (.contract, 0x31)] ∧
      v.toNat = e + 0x100 * s.fault.toNat + 0x200 * s.lock.toNat + 0x400 * s.lrcok.toNat +
        0x800 * s.ev.toNat + 0x1000 * s.dv.toNat + 0x2000 * s.shortv.toNat) ∧
    (∃ v, step { s with pending := .read .w32 0x008 :: rest } = .next { s with readData := v } ∧
      v.toNat = s.lrcen.toNat + 2 * s.spsel.toNat) ∧
    (∃ v, step { s with pending := .read .w32 0x04C :: rest } = .next { s with readData := v } ∧
      (s.pstate = .stop → v = 0) ∧ (s.pstate = .run → v = 1) ∧ (s.pstate = .pause → v = 2) ∧
      (s.pstate = .undefined → v = 3))

/-- O44. R41 (c) to (f), R18, R22, R27: what a 32-bit host write stores: the full value in a RW register, bits [1:0] in
CTRL, nothing in CHAN and CHCOUNT while LOCK = 1, nothing in STATUS and the output registers; while FAULT = 1 too (R105). -/
def Obligations.HostWritesStoreTheirValues : Prop :=
  ∀ (s : State) (v : Word) (rest : List HostOp), s.pending = rest →
    step { s with pending := .write32 0x00C v :: rest } = .next { s with slave := v } ∧
    step { s with pending := .write32 0x010 v :: rest } = .next { s with addr := v } ∧
    step { s with pending := .write32 0x014 v :: rest } = .next { s with value := v } ∧
    step { s with pending := .write32 0x034 v :: rest } = .next { s with rxLen := v } ∧
    step { s with pending := .write32 0x018 v :: rest } = .next (if s.lock then s else { s with chan := v }) ∧
    step { s with pending := .write32 0x01C v :: rest } = .next (if s.lock then s else { s with chcount := v }) ∧
    step { s with pending := .write32 0x008 v :: rest } = .next { s with lrcen := v.getLsbD 0, spsel := v.getLsbD 1 } ∧
    (∀ off ∈ [0x004, 0x020, 0x024, 0x028, 0x02C, 0x030, 0x038, 0x03C, 0x040, 0x044, 0x048, 0x04C, 0x050],
      step { s with pending := .write32 off v :: rest } = .next s)

/-- O45. R33, R34, R41: a byte written into RXBUF is what the host reads back, every other byte reads as before, and a byte
write to TXBUF or DECSTR changes nothing; the host reads TXBUF[i] as it stands while TXLEN is not 0, and DECSTR[i] below
DECLEN. With RXMAX above 256, that the bytes of RXBUF above 0x1FF are admitted is the model's inference (log 5). -/
def Obligations.BufferBytesAreStoredAndRead : Prop :=
  ∀ (s : State) (v b : Byte) (i : Nat) (rest : List HostOp), s.pending = rest →
    (i < s.rxMax → ∃ t, step { s with pending := .write8 (0x100 + i) v :: rest } = .next t ∧
      t = { s with mem := t.mem } ∧ Memory.read t.mem (0x100 + i) = some v ∧ Memory.sameOutside (0x100 + i) 1 s.mem t.mem ∧
      step { t with pending := .read .w8 (0x100 + i) :: rest } = .next { t with readData := v.setWidth 32 }) ∧
    (i < 17 → step { s with pending := .write8 (0x080 + i) v :: rest } = .next s) ∧
    (i < 8 → step { s with pending := .write8 (0x060 + i) v :: rest } = .next s) ∧
    (i < 17 → s.txLen ≠ 0 → Memory.read s.mem (0x080 + i) = some b →
      step { s with pending := .read .w8 (0x080 + i) :: rest } = .next { s with readData := b.setWidth 32 }) ∧
    (i < 8 → i < s.decLen.toNat → Memory.read s.mem (0x060 + i) = some b →
      step { s with pending := .read .w8 (0x060 + i) :: rest } = .next { s with readData := b.setWidth 32 })

/-- O46. R62: a received line (log 1) does what the transactions of LOADRX do, one by one (a length of 2^32 or more: log
24). -/
def Obligations.LineEqualsItsTransactions : Prop :=
  ∀ (s : State) (text : List Byte) (rest : List HostOp), text.length ≤ s.rxMax →
    Host.Core.run Sys2Proof.core (text.length + 1) { s with pending := loadRxOps text ++ rest } =
      step { s with pending := .line text :: rest }

/-! ## Whole-machine properties -/

/-- O47. The state after reset meets the invariant, for every RXMAX that R8 admits. -/
def Obligations.ResetMeetsTheInvariant : Prop :=
  State.reset.Inv ∧ ∀ rxMax, Config.rxMaxLeast ≤ rxMax → (State.resetWith rxMax).Inv

/-- O48. Every step keeps the invariant: RXMAX is one R8 admits, the memory stays canonical and inside the buffers, LOCK = 1
means a valid channel (R92), FAULT and ERR agree (R105), a TXLEN of 17 announces a whole frame with its checksum (R29, R68),
the used widths of R28 to R30 hold, and the temperature outputs are those of one payload (R31, R82). -/
def Obligations.EveryStepKeepsTheInvariant : Prop :=
  ∀ s t : State, s.Inv → step s = .next t → t.Inv

/-- O49. A memory in canonical form is determined by what its bytes read as. -/
def Obligations.CanonicalMemoriesAreEqualData : Prop :=
  ∀ m m' : List Host.Cell, Memory.wf m → Memory.wf m' → (∀ x, Memory.read m x = Memory.read m' x) → m = m'

/-- O50. R47: the inputs are taken one at a time, in their order: a step removes exactly the first, and no command adds,
drops or reorders one. -/
def Obligations.StepConsumesOneInput : Prop :=
  ∀ s t : State, step s = .next t → t.pending = s.pending.tail

/-- O51. R33, R114: TXBUF, TXLEN and TX_LRC change only by an ENC_* command or a reset. -/
def Obligations.OnlyEncodeCommandsTouchTheFrame : Prop :=
  ∀ s t : State, step s = .next t → (∀ op, s.pending.head? = some op → isReset op = false) →
    (∀ op i, s.pending.head? = some op → fetch op = .instr i → isEncode i = false) →
    t.txLen = s.txLen ∧ t.txLrc = s.txLrc ∧ ∀ k, k < 17 → Memory.read t.mem (txbufBase + k) = Memory.read s.mem (txbufBase + k)

/-- O52. R18, R34, R41, R101: no command but SOFT_RESET changes an operand register, CTRL, RXLEN or a byte of RXBUF, and
none changes the host's side. -/
def Obligations.CommandsKeepOperandsAndLine : Prop :=
  ∀ (i : Instr) (s t : State), isCommand i = true → i ≠ .softReset → exec i s = .next t →
    t.slave = s.slave ∧ t.addr = s.addr ∧ t.value = s.value ∧ t.chan = s.chan ∧ t.chcount = s.chcount ∧
    t.lrcen = s.lrcen ∧ t.spsel = s.spsel ∧ t.rxLen = s.rxLen ∧ t.pending = s.pending ∧ t.readData = s.readData ∧
    t.freeCount = s.freeCount ∧ ∀ k, Memory.read t.mem (rxbufBase + k) = Memory.read s.mem (rxbufBase + k)

/-- O53. R15, R106: every instruction completes: no error stops the machine. Only a command that reads the line can stop,
and only when a byte it reads has never been written. That the two wire frames are loaded as lines, and so complete, is the
model's choice (log 6). An error report is a next state too: what each instruction does when it succeeds is said by O11 to
O15, O17, O20 to O23, O29, O30 and O31. -/
def Obligations.EveryInstructionCompletes : Prop :=
  ∀ (i : Instr) (s : State), (readsLine i = true → s.fault = false → s.rxReadable) → ∃ t, exec i s = .next t

/-- O54. R8, U17: RXMAX is a parameter of the TMAC: no command, host access or reset changes it (that the model carries it
in the state is log 11). -/
def Obligations.RxMaxIsAParameter : Prop :=
  ∀ s t : State, step s = .next t → t.rxMax = s.rxMax

/-- O55. R34, R78, U17: RXBUF holds a line of any length up to RXMAX whole, so a decode command reads it; one more character
and it reports E_OVERLONG. That a line arrives as an input is the model's choice (log 1); with RXMAX above 256 the first
clause rests on log 5 (RXBUF's bytes above 0x1FF are admitted), and the second rests on log 21 (of a longer line RXLEN gets
the whole length). -/
def Obligations.LinesUpToRxMaxAreHeld : Prop :=
  ∀ (s : State) (text : List Byte) (rest : List HostOp), s.pending = .line text :: rest →
    (text.length ≤ s.rxMax → text.length < 2 ^ 32 →
      ∃ t, step s = .next t ∧ t.rxLen.toNat = text.length ∧ Memory.readBytes t.mem rxbufBase text.length = some text ∧
        rxLine t = .line (stripEol text)) ∧
    (∀ t, s.rxMax < text.length → text.length < 2 ^ 32 → s.fault = false → step s = .next t →
      RxFails .overlong t (exec .decode t))

/-- O56. The round-trip property of 95_test_vectors.md S9 for ENC_WRITE_SYM: a write frame of a Register Map symbol, echoed
and decoded, gives back the symbol's address on the bound channel in RX_ECHO and VALUE in RX_DATA, with either LRCEN. The
echo arrives as the wire frame (log 6). -/
def Obligations.EchoedSymbolWriteRoundTrip : Prop :=
  ∀ (sym : BitVec 4) (s : State) (A : Nat), s.rxMaxValid → s.channelValid → sym.toNat ≤ 12 → s.fault = false →
    (mapScoped sym.toNat = true → s.lock = true) → s.slave.toNat ≤ 0xFF → s.value.toNat ≤ 0xFFFF →
    A = mapAddr sym.toNat s.spsel s.chan.toNat → A ≤ 0xFFFF →
    ∃ t u v, exec (.encWriteSym sym) s = .next t ∧
      exec (.fc06WriteSingle (BitVec.ofNat 8 s.slave.toNat) (BitVec.ofNat 16 A) (BitVec.ofNat 16 s.value.toNat)
        (BitVec.ofNat 8 t.txLrc.toNat)) t = .next u ∧
      Memory.readBytes u.mem rxbufBase 17 = Memory.readBytes t.mem txbufBase 17 ∧ u.rxLen = t.txLen ∧
      exec .decode u = .next v ∧ v.err = .ok ∧ v.lrcok = true ∧ v.ev = true ∧ v.dv = true ∧
      v.rxEcho.toNat = A ∧ v.rxData.toNat = s.value.toNat ∧
      v.rxPayload.toNat = (A % 256) * 256 + s.value.toNat / 256
end

