-- ==== Sys2Proof/Laws/Hex.lean ====
section
/-! SUPPORT. Small facts of the ASCII-hex primitives. -/

namespace Sys2Proof.Machine

/-- A nibble's character has the nibble as its value. -/
theorem hexVal_hexChar {n : Nat} (h : n < 16) : hexVal (hexChar n) = some n := by
  have all : ∀ k : Fin 16, hexVal (hexChar k.val) = some k.val := by decide
  exact all ⟨n, h⟩

/-- A hex digit's value is a nibble. -/
theorem hexVal_lt {c : Byte} {v : Nat} (h : hexVal c = some v) : v < 16 := by
  unfold hexVal at h
  split at h
  · injection h; omega
  · split at h
    · injection h; omega
    · split at h
      · injection h; omega
      · cases h

/-- R76: the result is a byte value. -/
theorem parse2_lt {L : List Byte} {i v : Nat} (h : parse2 L i = some v) : v < 256 := by
  unfold parse2 at h
  split at h
  · split at h
    · rename_i hh hl
      have := hexVal_lt hh
      have := hexVal_lt hl
      injection h; omega
    · cases h
  · cases h

/-- R77: the result is a 16-bit value. -/
theorem parse4_lt {L : List Byte} {i v : Nat} (h : parse4 L i = some v) : v < 65536 := by
  unfold parse4 at h
  split at h
  · rename_i hh hl
    have := parse2_lt hh
    have := parse2_lt hl
    injection h; omega
  · cases h

@[simp] theorem hex2_length (b : Byte) : (hex2 b).length = 2 := rfl

@[simp] theorem hex4_length (w : Half) : (hex4 w).length = 4 := rfl

@[simp] theorem frameText_length (slave fc : Byte) (a d : Half) (e : Byte) : (frameText slave fc a d e).length = 17 := rfl

@[simp] theorem requestText_length (fc slave : Byte) (a d : Half) : (requestText fc slave a d).length = 17 := rfl

end Sys2Proof.Machine
end

