-- ==== Sys2Proof/Laws/Memory.lean ====
section
/-! SUPPORT. What the memory operations do: read after write, the canonical form kept by every write, runs of bytes. -/

namespace Sys2Proof.Machine.Memory

/-- Every offset of the list is above a. -/
def above (a : Nat) (m : List Host.Cell) : Prop := ∀ c ∈ m, a < c.1

theorem above_cons {a : Nat} {c : Host.Cell} {m : List Host.Cell} : above a (c :: m) ↔ a < c.1 ∧ above a m := by
  simp [above]

/-- A sorted list is its first entry and a sorted rest above it. -/
theorem wf_cons {c : Host.Cell} {m : List Host.Cell} : wf (c :: m) ↔ above c.1 m ∧ wf m := by
  induction m generalizing c with
  | nil => simp [wf, sorted, above]
  | cons d rest ih =>
    simp only [wf, sorted, Bool.and_eq_true, decide_eq_true_eq, above_cons] at ih ⊢
    constructor
    · rintro ⟨hcd, hs⟩
      exact ⟨⟨hcd, fun e he => Nat.lt_trans hcd ((ih.mp hs).1 e he)⟩, hs⟩
    · rintro ⟨⟨hcd, _⟩, hs⟩
      exact ⟨hcd, hs⟩

theorem above_write {m : List Host.Cell} {a b : Nat} {v : Byte} (h : above a m) (hb : a < b) :
    above a (write m b v) := by
  induction m with
  | nil => simpa [write, above] using hb
  | cons c rest ih =>
    obtain ⟨hc, hr⟩ := above_cons.mp h
    unfold write
    split
    · exact above_cons.mpr ⟨hb, h⟩
    · split
      · exact above_cons.mpr ⟨hb, hr⟩
      · exact above_cons.mpr ⟨hc, ih hr⟩

/-- A write keeps the canonical form. -/
theorem write_wf {m : List Host.Cell} (h : wf m) (a : Nat) (v : Byte) : wf (write m a v) := by
  induction m with
  | nil => rfl
  | cons c rest ih =>
    obtain ⟨hc, hr⟩ := wf_cons.mp h
    unfold write
    split
    · rename_i hlt
      exact wf_cons.mpr ⟨above_cons.mpr ⟨hlt, fun e he => Nat.lt_trans hlt (hc e he)⟩, h⟩
    · split
      · rename_i heq
        subst heq
        exact wf_cons.mpr ⟨hc, hr⟩
      · exact wf_cons.mpr ⟨above_write hc (by omega), ih hr⟩

/-- A run of writes keeps the canonical form. -/
theorem writeBytes_wf {m : List Host.Cell} (h : wf m) (a : Nat) (bs : List Byte) : wf (writeBytes m a bs) := by
  induction bs generalizing m a with
  | nil => exact h
  | cons b rest ih => exact ih (write_wf h a b) (a + 1)

/-- Reading what was written. -/
@[simp] theorem read_write_same (m : List Host.Cell) (a : Nat) (v : Byte) : read (write m a v) a = some v := by
  induction m with
  | nil => simp [write, read]
  | cons c rest ih =>
    unfold write
    split
    · simp [read]
    · split
      · simp [read]
      · rename_i h1 h2
        simp only [read, if_neg (Ne.symm h2), ih]

/-- A write leaves every other offset alone; this needs no canonical form. -/
theorem read_write_other {m : List Host.Cell} {a b : Nat} (v : Byte) (h : b ≠ a) :
    read (write m a v) b = read m b := by
  induction m with
  | nil => simp [write, read, Ne.symm h]
  | cons c rest ih =>
    unfold write
    split
    · simp [read, Ne.symm h]
    · split
      · rename_i h1 h2
        simp only [read, if_neg (Ne.symm h), if_neg (fun hc : c.1 = b => h (by omega))]
      · simp only [read, ih]

/-- A run of writes leaves every offset outside it alone. -/
theorem read_writeBytes_outside {m : List Host.Cell} {a b : Nat} {bs : List Byte} (h : b < a ∨ a + bs.length ≤ b) :
    read (writeBytes m a bs) b = read m b := by
  induction bs generalizing m a with
  | nil => rfl
  | cons v rest ih =>
    simp only [List.length_cons] at h
    rw [writeBytes, ih (by omega), read_write_other v (by omega)]

/-- Reading inside a run of writes. -/
theorem read_writeBytes_inside {m : List Host.Cell} {a i : Nat} {bs : List Byte} (h : i < bs.length) :
    read (writeBytes m a bs) (a + i) = some bs[i] := by
  induction bs generalizing m a i with
  | nil => simp at h
  | cons v rest ih =>
    cases i with
    | zero =>
      rw [writeBytes, read_writeBytes_outside (by omega)]
      simp
    | succ j =>
      have := ih (m := write m a v) (a := a + 1) (i := j) (by simpa using h)
      rw [writeBytes, show a + (j + 1) = a + 1 + j by omega, this]
      rfl

/-- Reading a run back. -/
@[simp] theorem readBytes_writeBytes (m : List Host.Cell) (a : Nat) (bs : List Byte) :
    readBytes (writeBytes m a bs) a bs.length = some bs := by
  induction bs generalizing m a with
  | nil => rfl
  | cons v rest ih =>
    have h0 : read (writeBytes (write m a v) (a + 1) rest) a = some v := by
      rw [read_writeBytes_outside (by omega)]
      simp
    simp [writeBytes, readBytes, h0, ih]

/-- A run reads the same in two memories that agree on its offsets. -/
theorem readBytes_congr {m m' : List Host.Cell} {a n : Nat} (h : ∀ i, i < n → read m (a + i) = read m' (a + i)) :
    readBytes m a n = readBytes m' a n := by
  induction n generalizing a with
  | zero => rfl
  | succ k ih =>
    have h0 : read m a = read m' a := h 0 (by omega)
    have h1 : readBytes m (a + 1) k = readBytes m' (a + 1) k :=
      ih fun i hi => by simpa [Nat.add_assoc, Nat.add_comm 1 i] using h (i + 1) (by omega)
    simp [readBytes, h0, h1]

/-- A run reads back exactly when each of its bytes has been written. -/
theorem readBytes_isSome {m : List Host.Cell} {a n : Nat} :
    (readBytes m a n).isSome ↔ ∀ i, i < n → (read m (a + i)).isSome := by
  induction n generalizing a with
  | zero => simp [readBytes]
  | succ k ih =>
    have split_first : (∀ i, i < k + 1 → (read m (a + i)).isSome) ↔
        (read m a).isSome ∧ ∀ i, i < k → (read m (a + 1 + i)).isSome := by
      constructor
      · intro h
        exact ⟨h 0 (by omega), fun i hi => by simpa [Nat.add_assoc, Nat.add_comm 1 i] using h (i + 1) (by omega)⟩
      · rintro ⟨h0, h1⟩ i hi
        cases i with
        | zero => exact h0
        | succ j => simpa [Nat.add_assoc, Nat.add_comm 1 j] using h1 j (by omega)
    rw [split_first, ← ih, readBytes]
    cases read m a <;> cases readBytes m (a + 1) k <;> simp

/-- A run that reads back has the length asked for. -/
theorem readBytes_length {m : List Host.Cell} {a n : Nat} {bs : List Byte} (h : readBytes m a n = some bs) :
    bs.length = n := by
  induction n generalizing a bs with
  | zero => simp [readBytes] at h; simp [← h]
  | succ k ih =>
    unfold readBytes at h
    split at h
    · rename_i b rest _ h1
      injection h with h
      simp [← h, ih h1]
    · cases h

end Sys2Proof.Machine.Memory
end

