-- ==== Sys2Proof/Laws/State.lean ====
section
/-! SUPPORT. One lemma per field per named update of the state, true by definition. -/

namespace Sys2Proof.Machine.State

variable (s : State)

@[simp] theorem setErr_err (e : ErrCode) : (s.setErr e).err = e := rfl
@[simp] theorem setErr_fault (e : ErrCode) : (s.setErr e).fault = s.fault := rfl
@[simp] theorem setErr_lock (e : ErrCode) : (s.setErr e).lock = s.lock := rfl
@[simp] theorem setErr_lrcok (e : ErrCode) : (s.setErr e).lrcok = s.lrcok := rfl
@[simp] theorem setErr_ev (e : ErrCode) : (s.setErr e).ev = s.ev := rfl
@[simp] theorem setErr_dv (e : ErrCode) : (s.setErr e).dv = s.dv := rfl
@[simp] theorem setErr_shortv (e : ErrCode) : (s.setErr e).shortv = s.shortv := rfl
@[simp] theorem setErr_lrcen (e : ErrCode) : (s.setErr e).lrcen = s.lrcen := rfl
@[simp] theorem setErr_spsel (e : ErrCode) : (s.setErr e).spsel = s.spsel := rfl
@[simp] theorem setErr_slave (e : ErrCode) : (s.setErr e).slave = s.slave := rfl
@[simp] theorem setErr_addr (e : ErrCode) : (s.setErr e).addr = s.addr := rfl
@[simp] theorem setErr_value (e : ErrCode) : (s.setErr e).value = s.value := rfl
@[simp] theorem setErr_chan (e : ErrCode) : (s.setErr e).chan = s.chan := rfl
@[simp] theorem setErr_chcount (e : ErrCode) : (s.setErr e).chcount = s.chcount := rfl
@[simp] theorem setErr_resAddr (e : ErrCode) : (s.setErr e).resAddr = s.resAddr := rfl
@[simp] theorem setErr_resLen (e : ErrCode) : (s.setErr e).resLen = s.resLen := rfl
@[simp] theorem setErr_resScoped (e : ErrCode) : (s.setErr e).resScoped = s.resScoped := rfl
@[simp] theorem setErr_txLrc (e : ErrCode) : (s.setErr e).txLrc = s.txLrc := rfl
@[simp] theorem setErr_txLen (e : ErrCode) : (s.setErr e).txLen = s.txLen := rfl
@[simp] theorem setErr_rxLen (e : ErrCode) : (s.setErr e).rxLen = s.rxLen := rfl
@[simp] theorem setErr_rxEcho (e : ErrCode) : (s.setErr e).rxEcho = s.rxEcho := rfl
@[simp] theorem setErr_rxPayload (e : ErrCode) : (s.setErr e).rxPayload = s.rxPayload := rfl
@[simp] theorem setErr_rxData (e : ErrCode) : (s.setErr e).rxData = s.rxData := rfl
@[simp] theorem setErr_tempInt (e : ErrCode) : (s.setErr e).tempInt = s.tempInt := rfl
@[simp] theorem setErr_tempFrac (e : ErrCode) : (s.setErr e).tempFrac = s.tempFrac := rfl
@[simp] theorem setErr_decLen (e : ErrCode) : (s.setErr e).decLen = s.decLen := rfl
@[simp] theorem setErr_pstate (e : ErrCode) : (s.setErr e).pstate = s.pstate := rfl
@[simp] theorem setErr_mem (e : ErrCode) : (s.setErr e).mem = s.mem := rfl
@[simp] theorem setErr_rxMax (e : ErrCode) : (s.setErr e).rxMax = s.rxMax := rfl
@[simp] theorem setErr_pending (e : ErrCode) : (s.setErr e).pending = s.pending := rfl
@[simp] theorem setErr_readData (e : ErrCode) : (s.setErr e).readData = s.readData := rfl
@[simp] theorem setErr_freeCount (e : ErrCode) : (s.setErr e).freeCount = s.freeCount := rfl

@[simp] theorem raise_err (e : ErrCode) : (s.raise e).err = e := rfl
@[simp] theorem raise_fault (e : ErrCode) : (s.raise e).fault = (s.fault || decide (e = .contract)) := rfl
@[simp] theorem raise_lock (e : ErrCode) : (s.raise e).lock = s.lock := rfl
@[simp] theorem raise_lrcok (e : ErrCode) : (s.raise e).lrcok = s.lrcok := rfl
@[simp] theorem raise_ev (e : ErrCode) : (s.raise e).ev = s.ev := rfl
@[simp] theorem raise_dv (e : ErrCode) : (s.raise e).dv = s.dv := rfl
@[simp] theorem raise_shortv (e : ErrCode) : (s.raise e).shortv = s.shortv := rfl
@[simp] theorem raise_lrcen (e : ErrCode) : (s.raise e).lrcen = s.lrcen := rfl
@[simp] theorem raise_spsel (e : ErrCode) : (s.raise e).spsel = s.spsel := rfl
@[simp] theorem raise_slave (e : ErrCode) : (s.raise e).slave = s.slave := rfl
@[simp] theorem raise_addr (e : ErrCode) : (s.raise e).addr = s.addr := rfl
@[simp] theorem raise_value (e : ErrCode) : (s.raise e).value = s.value := rfl
@[simp] theorem raise_chan (e : ErrCode) : (s.raise e).chan = s.chan := rfl
@[simp] theorem raise_chcount (e : ErrCode) : (s.raise e).chcount = s.chcount := rfl
@[simp] theorem raise_resAddr (e : ErrCode) : (s.raise e).resAddr = s.resAddr := rfl
@[simp] theorem raise_resLen (e : ErrCode) : (s.raise e).resLen = s.resLen := rfl
@[simp] theorem raise_resScoped (e : ErrCode) : (s.raise e).resScoped = s.resScoped := rfl
@[simp] theorem raise_txLrc (e : ErrCode) : (s.raise e).txLrc = s.txLrc := rfl
@[simp] theorem raise_txLen (e : ErrCode) : (s.raise e).txLen = s.txLen := rfl
@[simp] theorem raise_rxLen (e : ErrCode) : (s.raise e).rxLen = s.rxLen := rfl
@[simp] theorem raise_rxEcho (e : ErrCode) : (s.raise e).rxEcho = s.rxEcho := rfl
@[simp] theorem raise_rxPayload (e : ErrCode) : (s.raise e).rxPayload = s.rxPayload := rfl
@[simp] theorem raise_rxData (e : ErrCode) : (s.raise e).rxData = s.rxData := rfl
@[simp] theorem raise_tempInt (e : ErrCode) : (s.raise e).tempInt = s.tempInt := rfl
@[simp] theorem raise_tempFrac (e : ErrCode) : (s.raise e).tempFrac = s.tempFrac := rfl
@[simp] theorem raise_decLen (e : ErrCode) : (s.raise e).decLen = s.decLen := rfl
@[simp] theorem raise_pstate (e : ErrCode) : (s.raise e).pstate = s.pstate := rfl
@[simp] theorem raise_mem (e : ErrCode) : (s.raise e).mem = s.mem := rfl
@[simp] theorem raise_rxMax (e : ErrCode) : (s.raise e).rxMax = s.rxMax := rfl
@[simp] theorem raise_pending (e : ErrCode) : (s.raise e).pending = s.pending := rfl
@[simp] theorem raise_readData (e : ErrCode) : (s.raise e).readData = s.readData := rfl
@[simp] theorem raise_freeCount (e : ErrCode) : (s.raise e).freeCount = s.freeCount := rfl

@[simp] theorem encFail_err (e : ErrCode) : (s.encFail e).err = e := rfl
@[simp] theorem encFail_fault (e : ErrCode) : (s.encFail e).fault = (s.fault || decide (e = .contract)) := rfl
@[simp] theorem encFail_lock (e : ErrCode) : (s.encFail e).lock = s.lock := rfl
@[simp] theorem encFail_lrcok (e : ErrCode) : (s.encFail e).lrcok = s.lrcok := rfl
@[simp] theorem encFail_ev (e : ErrCode) : (s.encFail e).ev = s.ev := rfl
@[simp] theorem encFail_dv (e : ErrCode) : (s.encFail e).dv = s.dv := rfl
@[simp] theorem encFail_shortv (e : ErrCode) : (s.encFail e).shortv = s.shortv := rfl
@[simp] theorem encFail_lrcen (e : ErrCode) : (s.encFail e).lrcen = s.lrcen := rfl
@[simp] theorem encFail_spsel (e : ErrCode) : (s.encFail e).spsel = s.spsel := rfl
@[simp] theorem encFail_slave (e : ErrCode) : (s.encFail e).slave = s.slave := rfl
@[simp] theorem encFail_addr (e : ErrCode) : (s.encFail e).addr = s.addr := rfl
@[simp] theorem encFail_value (e : ErrCode) : (s.encFail e).value = s.value := rfl
@[simp] theorem encFail_chan (e : ErrCode) : (s.encFail e).chan = s.chan := rfl
@[simp] theorem encFail_chcount (e : ErrCode) : (s.encFail e).chcount = s.chcount := rfl
@[simp] theorem encFail_resAddr (e : ErrCode) : (s.encFail e).resAddr = s.resAddr := rfl
@[simp] theorem encFail_resLen (e : ErrCode) : (s.encFail e).resLen = s.resLen := rfl
@[simp] theorem encFail_resScoped (e : ErrCode) : (s.encFail e).resScoped = s.resScoped := rfl
@[simp] theorem encFail_txLrc (e : ErrCode) : (s.encFail e).txLrc = s.txLrc := rfl
@[simp] theorem encFail_txLen (e : ErrCode) : (s.encFail e).txLen = 0 := rfl
@[simp] theorem encFail_rxLen (e : ErrCode) : (s.encFail e).rxLen = s.rxLen := rfl
@[simp] theorem encFail_rxEcho (e : ErrCode) : (s.encFail e).rxEcho = s.rxEcho := rfl
@[simp] theorem encFail_rxPayload (e : ErrCode) : (s.encFail e).rxPayload = s.rxPayload := rfl
@[simp] theorem encFail_rxData (e : ErrCode) : (s.encFail e).rxData = s.rxData := rfl
@[simp] theorem encFail_tempInt (e : ErrCode) : (s.encFail e).tempInt = s.tempInt := rfl
@[simp] theorem encFail_tempFrac (e : ErrCode) : (s.encFail e).tempFrac = s.tempFrac := rfl
@[simp] theorem encFail_decLen (e : ErrCode) : (s.encFail e).decLen = s.decLen := rfl
@[simp] theorem encFail_pstate (e : ErrCode) : (s.encFail e).pstate = s.pstate := rfl
@[simp] theorem encFail_mem (e : ErrCode) : (s.encFail e).mem = s.mem := rfl
@[simp] theorem encFail_rxMax (e : ErrCode) : (s.encFail e).rxMax = s.rxMax := rfl
@[simp] theorem encFail_pending (e : ErrCode) : (s.encFail e).pending = s.pending := rfl
@[simp] theorem encFail_readData (e : ErrCode) : (s.encFail e).readData = s.readData := rfl
@[simp] theorem encFail_freeCount (e : ErrCode) : (s.encFail e).freeCount = s.freeCount := rfl

@[simp] theorem emit_err (fc slave : Byte) (a d : Half) : (s.emit fc slave a d).err = .ok := rfl
@[simp] theorem emit_fault (fc slave : Byte) (a d : Half) : (s.emit fc slave a d).fault = s.fault := rfl
@[simp] theorem emit_lock (fc slave : Byte) (a d : Half) : (s.emit fc slave a d).lock = s.lock := rfl
@[simp] theorem emit_lrcok (fc slave : Byte) (a d : Half) : (s.emit fc slave a d).lrcok = s.lrcok := rfl
@[simp] theorem emit_ev (fc slave : Byte) (a d : Half) : (s.emit fc slave a d).ev = s.ev := rfl
@[simp] theorem emit_dv (fc slave : Byte) (a d : Half) : (s.emit fc slave a d).dv = s.dv := rfl
@[simp] theorem emit_shortv (fc slave : Byte) (a d : Half) : (s.emit fc slave a d).shortv = s.shortv := rfl
@[simp] theorem emit_lrcen (fc slave : Byte) (a d : Half) : (s.emit fc slave a d).lrcen = s.lrcen := rfl
@[simp] theorem emit_spsel (fc slave : Byte) (a d : Half) : (s.emit fc slave a d).spsel = s.spsel := rfl
@[simp] theorem emit_slave (fc slave : Byte) (a d : Half) : (s.emit fc slave a d).slave = s.slave := rfl
@[simp] theorem emit_addr (fc slave : Byte) (a d : Half) : (s.emit fc slave a d).addr = s.addr := rfl
@[simp] theorem emit_value (fc slave : Byte) (a d : Half) : (s.emit fc slave a d).value = s.value := rfl
@[simp] theorem emit_chan (fc slave : Byte) (a d : Half) : (s.emit fc slave a d).chan = s.chan := rfl
@[simp] theorem emit_chcount (fc slave : Byte) (a d : Half) : (s.emit fc slave a d).chcount = s.chcount := rfl
@[simp] theorem emit_resAddr (fc slave : Byte) (a d : Half) : (s.emit fc slave a d).resAddr = s.resAddr := rfl
@[simp] theorem emit_resLen (fc slave : Byte) (a d : Half) : (s.emit fc slave a d).resLen = s.resLen := rfl
@[simp] theorem emit_resScoped (fc slave : Byte) (a d : Half) : (s.emit fc slave a d).resScoped = s.resScoped := rfl
@[simp] theorem emit_txLrc (fc slave : Byte) (a d : Half) : (s.emit fc slave a d).txLrc = (lrc (frameBytes slave fc a d)).setWidth 32 := rfl
@[simp] theorem emit_txLen (fc slave : Byte) (a d : Half) : (s.emit fc slave a d).txLen = BitVec.ofNat 32 Config.txFrameLen := rfl
@[simp] theorem emit_rxLen (fc slave : Byte) (a d : Half) : (s.emit fc slave a d).rxLen = s.rxLen := rfl
@[simp] theorem emit_rxEcho (fc slave : Byte) (a d : Half) : (s.emit fc slave a d).rxEcho = s.rxEcho := rfl
@[simp] theorem emit_rxPayload (fc slave : Byte) (a d : Half) : (s.emit fc slave a d).rxPayload = s.rxPayload := rfl
@[simp] theorem emit_rxData (fc slave : Byte) (a d : Half) : (s.emit fc slave a d).rxData = s.rxData := rfl
@[simp] theorem emit_tempInt (fc slave : Byte) (a d : Half) : (s.emit fc slave a d).tempInt = s.tempInt := rfl
@[simp] theorem emit_tempFrac (fc slave : Byte) (a d : Half) : (s.emit fc slave a d).tempFrac = s.tempFrac := rfl
@[simp] theorem emit_decLen (fc slave : Byte) (a d : Half) : (s.emit fc slave a d).decLen = s.decLen := rfl
@[simp] theorem emit_pstate (fc slave : Byte) (a d : Half) : (s.emit fc slave a d).pstate = s.pstate := rfl
@[simp] theorem emit_mem (fc slave : Byte) (a d : Half) : (s.emit fc slave a d).mem = Memory.writeBytes s.mem txbufBase (requestText fc slave a d) := rfl
@[simp] theorem emit_rxMax (fc slave : Byte) (a d : Half) : (s.emit fc slave a d).rxMax = s.rxMax := rfl
@[simp] theorem emit_pending (fc slave : Byte) (a d : Half) : (s.emit fc slave a d).pending = s.pending := rfl
@[simp] theorem emit_readData (fc slave : Byte) (a d : Half) : (s.emit fc slave a d).readData = s.readData := rfl
@[simp] theorem emit_freeCount (fc slave : Byte) (a d : Half) : (s.emit fc slave a d).freeCount = s.freeCount := rfl

@[simp] theorem rxFail_err (e : ErrCode) : (s.rxFail e).err = e := rfl
@[simp] theorem rxFail_fault (e : ErrCode) : (s.rxFail e).fault = s.fault := rfl
@[simp] theorem rxFail_lock (e : ErrCode) : (s.rxFail e).lock = s.lock := rfl
@[simp] theorem rxFail_lrcok (e : ErrCode) : (s.rxFail e).lrcok = false := rfl
@[simp] theorem rxFail_ev (e : ErrCode) : (s.rxFail e).ev = s.ev := rfl
@[simp] theorem rxFail_dv (e : ErrCode) : (s.rxFail e).dv = s.dv := rfl
@[simp] theorem rxFail_shortv (e : ErrCode) : (s.rxFail e).shortv = s.shortv := rfl
@[simp] theorem rxFail_lrcen (e : ErrCode) : (s.rxFail e).lrcen = s.lrcen := rfl
@[simp] theorem rxFail_spsel (e : ErrCode) : (s.rxFail e).spsel = s.spsel := rfl
@[simp] theorem rxFail_slave (e : ErrCode) : (s.rxFail e).slave = s.slave := rfl
@[simp] theorem rxFail_addr (e : ErrCode) : (s.rxFail e).addr = s.addr := rfl
@[simp] theorem rxFail_value (e : ErrCode) : (s.rxFail e).value = s.value := rfl
@[simp] theorem rxFail_chan (e : ErrCode) : (s.rxFail e).chan = s.chan := rfl
@[simp] theorem rxFail_chcount (e : ErrCode) : (s.rxFail e).chcount = s.chcount := rfl
@[simp] theorem rxFail_resAddr (e : ErrCode) : (s.rxFail e).resAddr = s.resAddr := rfl
@[simp] theorem rxFail_resLen (e : ErrCode) : (s.rxFail e).resLen = s.resLen := rfl
@[simp] theorem rxFail_resScoped (e : ErrCode) : (s.rxFail e).resScoped = s.resScoped := rfl
@[simp] theorem rxFail_txLrc (e : ErrCode) : (s.rxFail e).txLrc = s.txLrc := rfl
@[simp] theorem rxFail_txLen (e : ErrCode) : (s.rxFail e).txLen = s.txLen := rfl
@[simp] theorem rxFail_rxLen (e : ErrCode) : (s.rxFail e).rxLen = s.rxLen := rfl
@[simp] theorem rxFail_rxEcho (e : ErrCode) : (s.rxFail e).rxEcho = s.rxEcho := rfl
@[simp] theorem rxFail_rxPayload (e : ErrCode) : (s.rxFail e).rxPayload = s.rxPayload := rfl
@[simp] theorem rxFail_rxData (e : ErrCode) : (s.rxFail e).rxData = s.rxData := rfl
@[simp] theorem rxFail_tempInt (e : ErrCode) : (s.rxFail e).tempInt = s.tempInt := rfl
@[simp] theorem rxFail_tempFrac (e : ErrCode) : (s.rxFail e).tempFrac = s.tempFrac := rfl
@[simp] theorem rxFail_decLen (e : ErrCode) : (s.rxFail e).decLen = s.decLen := rfl
@[simp] theorem rxFail_pstate (e : ErrCode) : (s.rxFail e).pstate = s.pstate := rfl
@[simp] theorem rxFail_mem (e : ErrCode) : (s.rxFail e).mem = s.mem := rfl
@[simp] theorem rxFail_rxMax (e : ErrCode) : (s.rxFail e).rxMax = s.rxMax := rfl
@[simp] theorem rxFail_pending (e : ErrCode) : (s.rxFail e).pending = s.pending := rfl
@[simp] theorem rxFail_readData (e : ErrCode) : (s.rxFail e).readData = s.readData := rfl
@[simp] theorem rxFail_freeCount (e : ErrCode) : (s.rxFail e).freeCount = s.freeCount := rfl

@[simp] theorem rxGood_err (L : List Byte) (p : Nat) : (s.rxGood L p).err = .ok := rfl
@[simp] theorem rxGood_fault (L : List Byte) (p : Nat) : (s.rxGood L p).fault = s.fault := rfl
@[simp] theorem rxGood_lock (L : List Byte) (p : Nat) : (s.rxGood L p).lock = s.lock := rfl
@[simp] theorem rxGood_lrcok (L : List Byte) (p : Nat) : (s.rxGood L p).lrcok = frameOk L := rfl
@[simp] theorem rxGood_ev (L : List Byte) (p : Nat) : (s.rxGood L p).ev = (echoField L).isSome := rfl
@[simp] theorem rxGood_dv (L : List Byte) (p : Nat) : (s.rxGood L p).dv = (dataField L).isSome := rfl
@[simp] theorem rxGood_shortv (L : List Byte) (p : Nat) : (s.rxGood L p).shortv = s.shortv := rfl
@[simp] theorem rxGood_lrcen (L : List Byte) (p : Nat) : (s.rxGood L p).lrcen = s.lrcen := rfl
@[simp] theorem rxGood_spsel (L : List Byte) (p : Nat) : (s.rxGood L p).spsel = s.spsel := rfl
@[simp] theorem rxGood_slave (L : List Byte) (p : Nat) : (s.rxGood L p).slave = s.slave := rfl
@[simp] theorem rxGood_addr (L : List Byte) (p : Nat) : (s.rxGood L p).addr = s.addr := rfl
@[simp] theorem rxGood_value (L : List Byte) (p : Nat) : (s.rxGood L p).value = s.value := rfl
@[simp] theorem rxGood_chan (L : List Byte) (p : Nat) : (s.rxGood L p).chan = s.chan := rfl
@[simp] theorem rxGood_chcount (L : List Byte) (p : Nat) : (s.rxGood L p).chcount = s.chcount := rfl
@[simp] theorem rxGood_resAddr (L : List Byte) (p : Nat) : (s.rxGood L p).resAddr = s.resAddr := rfl
@[simp] theorem rxGood_resLen (L : List Byte) (p : Nat) : (s.rxGood L p).resLen = s.resLen := rfl
@[simp] theorem rxGood_resScoped (L : List Byte) (p : Nat) : (s.rxGood L p).resScoped = s.resScoped := rfl
@[simp] theorem rxGood_txLrc (L : List Byte) (p : Nat) : (s.rxGood L p).txLrc = s.txLrc := rfl
@[simp] theorem rxGood_txLen (L : List Byte) (p : Nat) : (s.rxGood L p).txLen = s.txLen := rfl
@[simp] theorem rxGood_rxLen (L : List Byte) (p : Nat) : (s.rxGood L p).rxLen = s.rxLen := rfl
@[simp] theorem rxGood_rxEcho (L : List Byte) (p : Nat) : (s.rxGood L p).rxEcho = ((echoField L).map (BitVec.ofNat 32)).getD s.rxEcho := rfl
@[simp] theorem rxGood_rxPayload (L : List Byte) (p : Nat) : (s.rxGood L p).rxPayload = BitVec.ofNat 32 p := rfl
@[simp] theorem rxGood_rxData (L : List Byte) (p : Nat) : (s.rxGood L p).rxData = ((dataField L).map (BitVec.ofNat 32)).getD s.rxData := rfl
@[simp] theorem rxGood_tempInt (L : List Byte) (p : Nat) : (s.rxGood L p).tempInt = s.tempInt := rfl
@[simp] theorem rxGood_tempFrac (L : List Byte) (p : Nat) : (s.rxGood L p).tempFrac = s.tempFrac := rfl
@[simp] theorem rxGood_decLen (L : List Byte) (p : Nat) : (s.rxGood L p).decLen = s.decLen := rfl
@[simp] theorem rxGood_pstate (L : List Byte) (p : Nat) : (s.rxGood L p).pstate = s.pstate := rfl
@[simp] theorem rxGood_mem (L : List Byte) (p : Nat) : (s.rxGood L p).mem = s.mem := rfl
@[simp] theorem rxGood_rxMax (L : List Byte) (p : Nat) : (s.rxGood L p).rxMax = s.rxMax := rfl
@[simp] theorem rxGood_pending (L : List Byte) (p : Nat) : (s.rxGood L p).pending = s.pending := rfl
@[simp] theorem rxGood_readData (L : List Byte) (p : Nat) : (s.rxGood L p).readData = s.readData := rfl
@[simp] theorem rxGood_freeCount (L : List Byte) (p : Nat) : (s.rxGood L p).freeCount = s.freeCount := rfl

@[simp] theorem storeTemp_err (p : Nat) : (s.storeTemp p).err = s.err := rfl
@[simp] theorem storeTemp_fault (p : Nat) : (s.storeTemp p).fault = s.fault := rfl
@[simp] theorem storeTemp_lock (p : Nat) : (s.storeTemp p).lock = s.lock := rfl
@[simp] theorem storeTemp_lrcok (p : Nat) : (s.storeTemp p).lrcok = s.lrcok := rfl
@[simp] theorem storeTemp_ev (p : Nat) : (s.storeTemp p).ev = s.ev := rfl
@[simp] theorem storeTemp_dv (p : Nat) : (s.storeTemp p).dv = s.dv := rfl
@[simp] theorem storeTemp_shortv (p : Nat) : (s.storeTemp p).shortv = shortFlag p := rfl
@[simp] theorem storeTemp_lrcen (p : Nat) : (s.storeTemp p).lrcen = s.lrcen := rfl
@[simp] theorem storeTemp_spsel (p : Nat) : (s.storeTemp p).spsel = s.spsel := rfl
@[simp] theorem storeTemp_slave (p : Nat) : (s.storeTemp p).slave = s.slave := rfl
@[simp] theorem storeTemp_addr (p : Nat) : (s.storeTemp p).addr = s.addr := rfl
@[simp] theorem storeTemp_value (p : Nat) : (s.storeTemp p).value = s.value := rfl
@[simp] theorem storeTemp_chan (p : Nat) : (s.storeTemp p).chan = s.chan := rfl
@[simp] theorem storeTemp_chcount (p : Nat) : (s.storeTemp p).chcount = s.chcount := rfl
@[simp] theorem storeTemp_resAddr (p : Nat) : (s.storeTemp p).resAddr = s.resAddr := rfl
@[simp] theorem storeTemp_resLen (p : Nat) : (s.storeTemp p).resLen = s.resLen := rfl
@[simp] theorem storeTemp_resScoped (p : Nat) : (s.storeTemp p).resScoped = s.resScoped := rfl
@[simp] theorem storeTemp_txLrc (p : Nat) : (s.storeTemp p).txLrc = s.txLrc := rfl
@[simp] theorem storeTemp_txLen (p : Nat) : (s.storeTemp p).txLen = s.txLen := rfl
@[simp] theorem storeTemp_rxLen (p : Nat) : (s.storeTemp p).rxLen = s.rxLen := rfl
@[simp] theorem storeTemp_rxEcho (p : Nat) : (s.storeTemp p).rxEcho = s.rxEcho := rfl
@[simp] theorem storeTemp_rxPayload (p : Nat) : (s.storeTemp p).rxPayload = s.rxPayload := rfl
@[simp] theorem storeTemp_rxData (p : Nat) : (s.storeTemp p).rxData = s.rxData := rfl
@[simp] theorem storeTemp_tempInt (p : Nat) : (s.storeTemp p).tempInt = BitVec.ofNat 32 (p / 10) := rfl
@[simp] theorem storeTemp_tempFrac (p : Nat) : (s.storeTemp p).tempFrac = BitVec.ofNat 32 (p % 10) := rfl
@[simp] theorem storeTemp_decLen (p : Nat) : (s.storeTemp p).decLen = BitVec.ofNat 32 (tempText p).length := rfl
@[simp] theorem storeTemp_pstate (p : Nat) : (s.storeTemp p).pstate = s.pstate := rfl
@[simp] theorem storeTemp_mem (p : Nat) : (s.storeTemp p).mem = Memory.writeBytes s.mem decstrBase (tempText p) := rfl
@[simp] theorem storeTemp_rxMax (p : Nat) : (s.storeTemp p).rxMax = s.rxMax := rfl
@[simp] theorem storeTemp_pending (p : Nat) : (s.storeTemp p).pending = s.pending := rfl
@[simp] theorem storeTemp_readData (p : Nat) : (s.storeTemp p).readData = s.readData := rfl
@[simp] theorem storeTemp_freeCount (p : Nat) : (s.storeTemp p).freeCount = s.freeCount := rfl

@[simp] theorem storePstate_err (p : Nat) : (s.storePstate p).err = s.err := rfl
@[simp] theorem storePstate_fault (p : Nat) : (s.storePstate p).fault = s.fault := rfl
@[simp] theorem storePstate_lock (p : Nat) : (s.storePstate p).lock = s.lock := rfl
@[simp] theorem storePstate_lrcok (p : Nat) : (s.storePstate p).lrcok = s.lrcok := rfl
@[simp] theorem storePstate_ev (p : Nat) : (s.storePstate p).ev = s.ev := rfl
@[simp] theorem storePstate_dv (p : Nat) : (s.storePstate p).dv = s.dv := rfl
@[simp] theorem storePstate_shortv (p : Nat) : (s.storePstate p).shortv = s.shortv := rfl
@[simp] theorem storePstate_lrcen (p : Nat) : (s.storePstate p).lrcen = s.lrcen := rfl
@[simp] theorem storePstate_spsel (p : Nat) : (s.storePstate p).spsel = s.spsel := rfl
@[simp] theorem storePstate_slave (p : Nat) : (s.storePstate p).slave = s.slave := rfl
@[simp] theorem storePstate_addr (p : Nat) : (s.storePstate p).addr = s.addr := rfl
@[simp] theorem storePstate_value (p : Nat) : (s.storePstate p).value = s.value := rfl
@[simp] theorem storePstate_chan (p : Nat) : (s.storePstate p).chan = s.chan := rfl
@[simp] theorem storePstate_chcount (p : Nat) : (s.storePstate p).chcount = s.chcount := rfl
@[simp] theorem storePstate_resAddr (p : Nat) : (s.storePstate p).resAddr = s.resAddr := rfl
@[simp] theorem storePstate_resLen (p : Nat) : (s.storePstate p).resLen = s.resLen := rfl
@[simp] theorem storePstate_resScoped (p : Nat) : (s.storePstate p).resScoped = s.resScoped := rfl
@[simp] theorem storePstate_txLrc (p : Nat) : (s.storePstate p).txLrc = s.txLrc := rfl
@[simp] theorem storePstate_txLen (p : Nat) : (s.storePstate p).txLen = s.txLen := rfl
@[simp] theorem storePstate_rxLen (p : Nat) : (s.storePstate p).rxLen = s.rxLen := rfl
@[simp] theorem storePstate_rxEcho (p : Nat) : (s.storePstate p).rxEcho = s.rxEcho := rfl
@[simp] theorem storePstate_rxPayload (p : Nat) : (s.storePstate p).rxPayload = s.rxPayload := rfl
@[simp] theorem storePstate_rxData (p : Nat) : (s.storePstate p).rxData = s.rxData := rfl
@[simp] theorem storePstate_tempInt (p : Nat) : (s.storePstate p).tempInt = s.tempInt := rfl
@[simp] theorem storePstate_tempFrac (p : Nat) : (s.storePstate p).tempFrac = s.tempFrac := rfl
@[simp] theorem storePstate_decLen (p : Nat) : (s.storePstate p).decLen = s.decLen := rfl
@[simp] theorem storePstate_pstate (p : Nat) : (s.storePstate p).pstate = ProcState.ofCode p := rfl
@[simp] theorem storePstate_mem (p : Nat) : (s.storePstate p).mem = s.mem := rfl
@[simp] theorem storePstate_rxMax (p : Nat) : (s.storePstate p).rxMax = s.rxMax := rfl
@[simp] theorem storePstate_pending (p : Nat) : (s.storePstate p).pending = s.pending := rfl
@[simp] theorem storePstate_readData (p : Nat) : (s.storePstate p).readData = s.readData := rfl
@[simp] theorem storePstate_freeCount (p : Nat) : (s.storePstate p).freeCount = s.freeCount := rfl

@[simp] theorem returnData_err (v : Word) : (s.returnData v).err = s.err := rfl
@[simp] theorem returnData_fault (v : Word) : (s.returnData v).fault = s.fault := rfl
@[simp] theorem returnData_lock (v : Word) : (s.returnData v).lock = s.lock := rfl
@[simp] theorem returnData_lrcok (v : Word) : (s.returnData v).lrcok = s.lrcok := rfl
@[simp] theorem returnData_ev (v : Word) : (s.returnData v).ev = s.ev := rfl
@[simp] theorem returnData_dv (v : Word) : (s.returnData v).dv = s.dv := rfl
@[simp] theorem returnData_shortv (v : Word) : (s.returnData v).shortv = s.shortv := rfl
@[simp] theorem returnData_lrcen (v : Word) : (s.returnData v).lrcen = s.lrcen := rfl
@[simp] theorem returnData_spsel (v : Word) : (s.returnData v).spsel = s.spsel := rfl
@[simp] theorem returnData_slave (v : Word) : (s.returnData v).slave = s.slave := rfl
@[simp] theorem returnData_addr (v : Word) : (s.returnData v).addr = s.addr := rfl
@[simp] theorem returnData_value (v : Word) : (s.returnData v).value = s.value := rfl
@[simp] theorem returnData_chan (v : Word) : (s.returnData v).chan = s.chan := rfl
@[simp] theorem returnData_chcount (v : Word) : (s.returnData v).chcount = s.chcount := rfl
@[simp] theorem returnData_resAddr (v : Word) : (s.returnData v).resAddr = s.resAddr := rfl
@[simp] theorem returnData_resLen (v : Word) : (s.returnData v).resLen = s.resLen := rfl
@[simp] theorem returnData_resScoped (v : Word) : (s.returnData v).resScoped = s.resScoped := rfl
@[simp] theorem returnData_txLrc (v : Word) : (s.returnData v).txLrc = s.txLrc := rfl
@[simp] theorem returnData_txLen (v : Word) : (s.returnData v).txLen = s.txLen := rfl
@[simp] theorem returnData_rxLen (v : Word) : (s.returnData v).rxLen = s.rxLen := rfl
@[simp] theorem returnData_rxEcho (v : Word) : (s.returnData v).rxEcho = s.rxEcho := rfl
@[simp] theorem returnData_rxPayload (v : Word) : (s.returnData v).rxPayload = s.rxPayload := rfl
@[simp] theorem returnData_rxData (v : Word) : (s.returnData v).rxData = s.rxData := rfl
@[simp] theorem returnData_tempInt (v : Word) : (s.returnData v).tempInt = s.tempInt := rfl
@[simp] theorem returnData_tempFrac (v : Word) : (s.returnData v).tempFrac = s.tempFrac := rfl
@[simp] theorem returnData_decLen (v : Word) : (s.returnData v).decLen = s.decLen := rfl
@[simp] theorem returnData_pstate (v : Word) : (s.returnData v).pstate = s.pstate := rfl
@[simp] theorem returnData_mem (v : Word) : (s.returnData v).mem = s.mem := rfl
@[simp] theorem returnData_rxMax (v : Word) : (s.returnData v).rxMax = s.rxMax := rfl
@[simp] theorem returnData_pending (v : Word) : (s.returnData v).pending = s.pending := rfl
@[simp] theorem returnData_readData (v : Word) : (s.returnData v).readData = v := rfl
@[simp] theorem returnData_freeCount (v : Word) : (s.returnData v).freeCount = s.freeCount := rfl

@[simp] theorem resetAll_err : s.resetAll.err = State.reset.err := rfl
@[simp] theorem resetAll_fault : s.resetAll.fault = State.reset.fault := rfl
@[simp] theorem resetAll_lock : s.resetAll.lock = State.reset.lock := rfl
@[simp] theorem resetAll_lrcok : s.resetAll.lrcok = State.reset.lrcok := rfl
@[simp] theorem resetAll_ev : s.resetAll.ev = State.reset.ev := rfl
@[simp] theorem resetAll_dv : s.resetAll.dv = State.reset.dv := rfl
@[simp] theorem resetAll_shortv : s.resetAll.shortv = State.reset.shortv := rfl
@[simp] theorem resetAll_lrcen : s.resetAll.lrcen = State.reset.lrcen := rfl
@[simp] theorem resetAll_spsel : s.resetAll.spsel = State.reset.spsel := rfl
@[simp] theorem resetAll_slave : s.resetAll.slave = State.reset.slave := rfl
@[simp] theorem resetAll_addr : s.resetAll.addr = State.reset.addr := rfl
@[simp] theorem resetAll_value : s.resetAll.value = State.reset.value := rfl
@[simp] theorem resetAll_chan : s.resetAll.chan = State.reset.chan := rfl
@[simp] theorem resetAll_chcount : s.resetAll.chcount = State.reset.chcount := rfl
@[simp] theorem resetAll_resAddr : s.resetAll.resAddr = State.reset.resAddr := rfl
@[simp] theorem resetAll_resLen : s.resetAll.resLen = State.reset.resLen := rfl
@[simp] theorem resetAll_resScoped : s.resetAll.resScoped = State.reset.resScoped := rfl
@[simp] theorem resetAll_txLrc : s.resetAll.txLrc = State.reset.txLrc := rfl
@[simp] theorem resetAll_txLen : s.resetAll.txLen = State.reset.txLen := rfl
@[simp] theorem resetAll_rxLen : s.resetAll.rxLen = State.reset.rxLen := rfl
@[simp] theorem resetAll_rxEcho : s.resetAll.rxEcho = State.reset.rxEcho := rfl
@[simp] theorem resetAll_rxPayload : s.resetAll.rxPayload = State.reset.rxPayload := rfl
@[simp] theorem resetAll_rxData : s.resetAll.rxData = State.reset.rxData := rfl
@[simp] theorem resetAll_tempInt : s.resetAll.tempInt = State.reset.tempInt := rfl
@[simp] theorem resetAll_tempFrac : s.resetAll.tempFrac = State.reset.tempFrac := rfl
@[simp] theorem resetAll_decLen : s.resetAll.decLen = State.reset.decLen := rfl
@[simp] theorem resetAll_pstate : s.resetAll.pstate = State.reset.pstate := rfl
@[simp] theorem resetAll_mem : s.resetAll.mem = State.reset.mem := rfl
@[simp] theorem resetAll_rxMax : s.resetAll.rxMax = s.rxMax := rfl
@[simp] theorem resetAll_pending : s.resetAll.pending = s.pending := rfl
@[simp] theorem resetAll_readData : s.resetAll.readData = s.readData := rfl
@[simp] theorem resetAll_freeCount : s.resetAll.freeCount = s.freeCount := rfl

end Sys2Proof.Machine.State
end

