-- ==== Sys2Proof/Laws/Bus.lean ====
section
/-! SUPPORT. What the host accesses can do, said once, and loading a line in closed form. -/

namespace Sys2Proof.Machine

/-- A read gives the host data and, for an unspecified byte, uses one free byte. -/
theorem readByte_frame (s : State) (b : Buf) (i : Nat) :
    s.readByte b i = { s with readData := (s.readByte b i).readData, freeCount := (s.readByte b i).freeCount } := by
  unfold State.readByte State.returnData
  split <;> rfl

/-- R41 (a): a completed read changes only the host's side. -/
theorem busRead_next {w : Width} {off : Nat} {s t : State} (h : busRead w off s = .next t) :
    t = { s with readData := t.readData, freeCount := t.freeCount } := by
  unfold busRead at h
  split at h
  · injection h with h; subst h; rfl
  · rename_i b i _
    injection h with h; subst h
    exact readByte_frame s b i
  · injection h with h; subst h; rfl
  · cases h

/-- A completed 32-bit write stores to a word register or nothing. -/
theorem busWrite32_next {off : Nat} {v : Word} {s t : State} (h : busWrite32 off v s = .next t) :
    t = s ∨ ∃ r, target s.rxMax .w32 off = some (.reg r) ∧ t = s.writeReg r v := by
  unfold busWrite32 at h
  split at h
  · rename_i r hr
    injection h with h
    exact .inr ⟨r, hr, h.symm⟩
  · injection h with h; exact .inl h.symm
  · injection h with h; exact .inl h.symm
  · cases h

/-- A byte target that is a buffer byte is at that buffer's base plus its index, inside the buffer. -/
theorem bufferAt_some {rxMax off i : Nat} {b : Buf} (h : bufferAt rxMax off = some (b, i)) :
    off = bufBase b + i ∧ i < bufSize rxMax b := by
  unfold bufferAt at h
  split at h
  · injection h with h; injection h with h1 h2; subst h1 h2; simp only [bufBase]; omega
  · split at h
    · injection h with h; injection h with h1 h2; subst h1 h2; simp only [bufBase]; omega
    · split at h
      · injection h with h; injection h with h1 h2; subst h1 h2; simp only [bufBase]; omega
      · cases h

/-- R38: the bytes of DECSTR stand from 0x060 on. -/
theorem bufferAt_decstr {rxMax i : Nat} (h : i < Config.decStrLen) :
    bufferAt rxMax (decstrBase + i) = some (.decstr, i) := by
  have h1 : decstrBase ≤ decstrBase + i ∧ decstrBase + i < decstrBase + bufSize rxMax .decstr := by
    simp only [bufSize]; omega
  unfold bufferAt
  rw [if_pos h1, Nat.add_sub_cancel_left]

/-- R38: the bytes of TXBUF stand from 0x080 on. -/
theorem bufferAt_txbuf {rxMax i : Nat} (h : i < Config.txFrameLen) :
    bufferAt rxMax (txbufBase + i) = some (.txbuf, i) := by
  have h1 : ¬(decstrBase ≤ txbufBase + i ∧ txbufBase + i < decstrBase + bufSize rxMax .decstr) := by
    simp only [decstrBase, txbufBase, bufSize, Config.decStrLen]; omega
  have h2 : txbufBase ≤ txbufBase + i ∧ txbufBase + i < txbufBase + bufSize rxMax .txbuf := by
    simp only [bufSize]; omega
  unfold bufferAt
  rw [if_neg h1, if_pos h2, Nat.add_sub_cancel_left]

/-- R38: the bytes of RXBUF stand from 0x100 on, whatever RXMAX is. -/
theorem bufferAt_rxbuf {rxMax i : Nat} (h : i < rxMax) : bufferAt rxMax (rxbufBase + i) = some (.rxbuf, i) := by
  have h1 : ¬(decstrBase ≤ rxbufBase + i ∧ rxbufBase + i < decstrBase + bufSize rxMax .decstr) := by
    simp only [decstrBase, rxbufBase, bufSize, Config.decStrLen]; omega
  have h2 : ¬(txbufBase ≤ rxbufBase + i ∧ rxbufBase + i < txbufBase + bufSize rxMax .txbuf) := by
    simp only [txbufBase, rxbufBase, bufSize, Config.txFrameLen]; omega
  have h3 : rxbufBase ≤ rxbufBase + i ∧ rxbufBase + i < rxbufBase + bufSize rxMax .rxbuf := by
    simp only [rxbufBase, bufSize]; omega
  unfold bufferAt
  rw [if_neg h1, if_neg h2, if_pos h3, Nat.add_sub_cancel_left]

/-- R38: which host offsets are buffer bytes. -/
theorem bufferAt_isSome (rxMax off : Nat) :
    (bufferAt rxMax off).isSome ↔
      (decstrBase ≤ off ∧ off < decstrBase + Config.decStrLen) ∨ (txbufBase ≤ off ∧ off < txbufBase + Config.txFrameLen) ∨
      (rxbufBase ≤ off ∧ off < rxbufBase + rxMax) := by
  unfold bufferAt bufSize
  simp only
  split
  · exact iff_of_true rfl (.inl ‹_›)
  · split
    · exact iff_of_true rfl (.inr (.inl ‹_›))
    · split
      · exact iff_of_true rfl (.inr (.inr ‹_›))
      · exact iff_of_false (by simp) (by omega)

/-- R40: which 32-bit accesses are admitted: the word registers stand below DECSTR. -/
theorem wordTarget_isSome (rxMax off : Nat) :
    (wordTarget rxMax off).isSome ↔ off % 4 = 0 ∧ off ≤ lastOffset ∧ ¬(bufferAt rxMax off).isSome = true := by
  unfold wordTarget
  split
  · exact iff_of_false (by simp) (by omega)
  · rename_i h
    have h' : off % 4 = 0 ∧ off ≤ lastOffset := by omega
    split
    · rename_i r hr
      have hl : off / 4 < 21 := (List.getElem?_eq_some_iff.mp hr).1
      have hb : ¬(bufferAt rxMax off).isSome = true := by
        rw [bufferAt_isSome]; simp only [decstrBase, txbufBase, rxbufBase]; omega
      exact iff_of_true rfl ⟨h'.1, h'.2, hb⟩
    · cases hb : bufferAt rxMax off <;> simp [h'.1, h'.2]

/-- R38, R40: a 32-bit access at a word register's offset reaches that register. -/
theorem target_regOffset (rxMax : Nat) (r : Reg) : target rxMax .w32 (regOffset r) = some (.reg r) := by
  cases r <;> rfl

/-- R40: an 8-bit access to a buffer byte is admitted and reaches it. -/
theorem byteTarget_buffer {rxMax off i : Nat} {b : Buf} (h : bufferAt rxMax off = some (b, i)) :
    byteTarget rxMax off = some (.byte b i) := by
  simp only [byteTarget, h]

/-- R40: which 8-bit accesses are admitted. -/
theorem byteTarget_isSome (rxMax off : Nat) :
    (byteTarget rxMax off).isSome ↔ (bufferAt rxMax off).isSome ∨ decstrBase ≤ off ∧ off ≤ lastOffset := by
  unfold byteTarget
  cases bufferAt rxMax off with
  | some p => simp
  | none => simp only [Option.isSome_none, Bool.false_eq_true, false_or]; split <;> simp <;> omega

/-- A completed 8-bit write stores one byte of RXBUF or nothing. -/
theorem busWrite8_next {off : Nat} {v : Byte} {s t : State} (h : busWrite8 off v s = .next t) :
    t = s ∨ ∃ i, i < s.rxMax ∧ off = rxbufBase + i ∧ t = { s with mem := Memory.write s.mem off v } := by
  unfold busWrite8 at h
  split at h
  · rename_i i hi
    injection h with h
    unfold target byteTarget at hi
    simp only at hi
    split at hi
    · rename_i b j hb
      injection hi with hi; injection hi with h1 h2; subst h1 h2
      obtain ⟨ho, hs⟩ := bufferAt_some hb
      exact .inr ⟨_, hs, ho, by rw [← h, ho]; rfl⟩
    · split at hi <;> cases hi
  all_goals first | cases h; done | (injection h with h; exact .inl h.symm)

/-- R38, R41: a byte written into RXBUF is stored. -/
theorem busWrite8_rxbuf {i : Nat} (v : Byte) (s : State) (h : i < s.rxMax) :
    busWrite8 (rxbufBase + i) v s = .next { s with mem := Memory.write s.mem (rxbufBase + i) v } := by
  have ht : target s.rxMax .w8 (rxbufBase + i) = some (.byte .rxbuf i) := byteTarget_buffer (bufferAt_rxbuf h)
  simp [busWrite8, ht]

/-- An 8-bit write inside the register space from DECSTR on completes, and keeps RXMAX. -/
theorem busWrite8_completes {off : Nat} (v : Byte) (s : State) (h : decstrBase ≤ off ∧ off ≤ lastOffset) :
    ∃ t, busWrite8 off v s = .next t ∧ t.rxMax = s.rxMax := by
  obtain ⟨k, hk⟩ := Option.isSome_iff_exists.mp ((byteTarget_isSome s.rxMax off).mpr (.inr h))
  have ht : target s.rxMax .w8 off = some k := hk
  unfold busWrite8
  rw [ht]
  split <;> first | exact ⟨_, rfl, rfl⟩ | contradiction

theorem storeRx_next {text : List Byte} {i : Nat} {s : State} (h : i + text.length ≤ s.rxMax) :
    storeRx i text s = .next { s with mem := Memory.writeBytes s.mem (rxbufBase + i) text } := by
  induction text generalizing i s with
  | nil => rfl
  | cons c rest ih =>
    simp only [List.length_cons] at h
    rw [storeRx, busWrite8_rxbuf c s (by omega)]
    simp only [Result.andThen]
    rw [ih (by exact (by omega : i + 1 + rest.length ≤ s.rxMax))]
    rfl

/-- Storing a line whose characters all stand inside the register space completes, whatever RXMAX is. -/
theorem storeRx_completes {text : List Byte} {i : Nat} (s : State) (h : rxbufBase + i + text.length ≤ lastOffset + 1) :
    ∃ t, storeRx i text s = .next t ∧ t.rxMax = s.rxMax := by
  induction text generalizing i s with
  | nil => exact ⟨s, rfl, rfl⟩
  | cons c rest ih =>
    simp only [List.length_cons, rxbufBase, lastOffset] at h
    obtain ⟨u, hu, hm⟩ := busWrite8_completes (off := rxbufBase + i) c s (by simp only [decstrBase, rxbufBase, lastOffset]; omega)
    obtain ⟨t, ht, hn⟩ := ih u (i := i + 1) (by simp only [rxbufBase, lastOffset]; omega)
    exact ⟨t, by rw [storeRx, hu]; exact ht, hn.trans hm⟩

/-- Loading a line that fits RXBUF: its bytes stand in RXBUF from index 0 on, RXLEN is its length, nothing else changes. -/
theorem loadLine_next {text : List Byte} (s : State) (h : text.length ≤ s.rxMax) :
    loadLine text s =
      .next { s with mem := Memory.writeBytes s.mem rxbufBase text, rxLen := BitVec.ofNat 32 text.length } := by
  rw [loadLine, storeRx_next (by omega)]
  rfl

/-- Writing RXLEN stores the full value (R34, R41). -/
theorem busWrite32_rxLen (v : Word) (s : State) : busWrite32 (regOffset .rxLen) v s = .next { s with rxLen := v } := by
  simp only [busWrite32, target_regOffset]
  rfl

/-- A line that stands inside the register space is loaded, whatever RXMAX is. -/
theorem loadLine_completes {text : List Byte} (s : State) (h : rxbufBase + text.length ≤ lastOffset + 1) :
    ∃ t, loadLine text s = .next t := by
  obtain ⟨u, hu, -⟩ := storeRx_completes (i := 0) s h
  exact ⟨{ u with rxLen := BitVec.ofNat 32 text.length }, by
    rw [loadLine, hu]
    exact busWrite32_rxLen _ u⟩

end Sys2Proof.Machine
end

