-- ==== Sys2Proof/Laws/Ops.lean ====
section
/-! SUPPORT. What each shared operation of a command can do, said once. -/

namespace Sys2Proof.Machine

/-- A command that may be refused: it answers E_FAULTED, or FAULT = 0 and it runs. -/
theorem whenNotFaulted_cases {s : State} {run r : Result} (h : whenNotFaulted s run = r) :
    (s.fault = true ∧ r = .next (s.setErr .faulted)) ∨ (s.fault = false ∧ run = r) := by
  unfold whenNotFaulted at h
  cases hf : s.fault <;> simp [hf] at h
  · exact .inr ⟨rfl, h⟩
  · exact .inl ⟨rfl, h.symm⟩

theorem whenNotFaulted_clear {s : State} (run : Result) (h : s.fault = false) : whenNotFaulted s run = run := by
  simp [whenNotFaulted, h]

theorem whenNotFaulted_faulted {s : State} (run : Result) (h : s.fault = true) :
    whenNotFaulted s run = .next (s.setErr .faulted) := by
  simp [whenNotFaulted, h]

/-- An illegal word changes only ERR. -/
theorem illegalWord_next {s t : State} (h : illegalWord s = .next t) :
    t = s.setErr (if s.fault then .faulted else .illegal) := by
  unfold illegalWord at h
  injection h with h
  cases hf : s.fault <;> simp [hf] at h ⊢ <;> exact h.symm

/-- A raw encode command is refused, fails by R69, or emits one frame. -/
theorem encodeRaw_cases {fc : Byte} {ch : Bool} {s : State} {r : Result} (h : encodeRaw fc ch s = r) :
    (s.fault = true ∧ r = .next (s.setErr .faulted)) ∨
    (s.fault = false ∧ ∃ e, e ≠ .ok ∧ r = .next (s.encFail e)) ∨
    (s.fault = false ∧ (ch = true → s.lock = true) ∧ s.slave.toNat ≤ Config.slaveMax ∧ s.addr.toNat ≤ Config.addrMax ∧
      s.value.toNat ≤ Config.valueMax ∧ rawAddr ch s ≤ Config.addrMax ∧
      r = .next (s.emit fc (s.slave.setWidth 8) (BitVec.ofNat 16 (rawAddr ch s)) (s.value.setWidth 16))) := by
  rcases whenNotFaulted_cases h with hf | ⟨hf, h⟩
  · exact .inl hf
  · repeat' split at h
    · exact .inr (.inl ⟨hf, .contract, by decide, h.symm⟩)
    · exact .inr (.inl ⟨hf, .rangeSlave, by decide, h.symm⟩)
    · exact .inr (.inl ⟨hf, .rangeAddr, by decide, h.symm⟩)
    · exact .inr (.inl ⟨hf, .rangeValue, by decide, h.symm⟩)
    · exact .inr (.inl ⟨hf, .rangeOffset, by decide, h.symm⟩)
    · rename_i h1 h2 h3 h4 h5
      refine .inr (.inr ⟨hf, ?_, by omega, by omega, by omega, by omega, h.symm⟩)
      intro hc
      simpa [hc] using h1

/-- A failed check of a line reports an error, not success. -/
theorem frameError_ne_ok {L : List Byte} {e : ErrCode} (h : frameError L = some e) : e ≠ .ok := by
  rintro rfl
  unfold frameError at h
  repeat' split at h
  all_goals cases h

/-- decode_line that fails reports an error, not success. -/
theorem lineVerdict_bad_ne_ok {b : Bool} {L : List Byte} {e : ErrCode} (h : lineVerdict b L = .bad e) : e ≠ .ok := by
  rintro rfl
  unfold lineVerdict at h
  repeat' split at h
  all_goals first | cases h; done | skip
  rename_i he
  injection h with h
  exact frameError_ne_ok he h

/-- A decode command is refused, fails by R80, stops on a never-written byte, or decodes the line. -/
theorem decodeThen_cases {post : Nat → State → State} {s : State} {r : Result} (h : decodeThen post s = r) :
    (s.fault = true ∧ r = .next (s.setErr .faulted)) ∨
    (s.fault = false ∧ ∃ e, e ≠ .ok ∧ r = .next (s.rxFail e)) ∨
    (s.fault = false ∧ rxLine s = .unwritten ∧ r = .fault .unwrittenRxByte) ∨
    (s.fault = false ∧ ∃ L p, rxLine s = .line L ∧ lineVerdict s.lrcen L = .good p ∧
      r = .next (post p (s.rxGood L p))) := by
  rcases whenNotFaulted_cases h with hf | ⟨hf, h⟩
  · exact .inl hf
  · split at h
    · exact .inr (.inl ⟨hf, .overlong, by decide, h.symm⟩)
    · rename_i hl
      exact .inr (.inr (.inl ⟨hf, hl, h.symm⟩))
    · rename_i L hl
      split at h
      · rename_i e he
        exact .inr (.inl ⟨hf, e, lineVerdict_bad_ne_ok he, h.symm⟩)
      · rename_i p hp
        exact .inr (.inr (.inr ⟨hf, L, p, hl, hp, h.symm⟩))

/-- The payload of a decoded line is its four hex digits at index 7. -/
theorem lineVerdict_good {b : Bool} {L : List Byte} {p : Nat} (h : lineVerdict b L = .good p) :
    11 ≤ L.length ∧ parse4 L 7 = some p ∧ (b = true → frameError L = none) := by
  unfold lineVerdict at h
  split at h
  · cases h
  · split at h
    · cases h
    · rename_i hlen
      have h11 : 11 ≤ L.length := Nat.le_of_not_lt hlen
      split at h
      · cases h
      · rename_i q hq
        split at h
        · split at h
          · cases h
          · injection h with h
            exact ⟨h11, h ▸ hq, fun _ => by assumption⟩
        · injection h with h
          exact ⟨h11, h ▸ hq, fun hb => by contradiction⟩

/-- The line read is the stripped text of RXBUF[0..RXLEN-1]. -/
theorem rxLine_line {s : State} {L : List Byte} (h : rxLine s = .line L) :
    s.rxLen.toNat ≤ s.rxMax ∧ ∃ B, Memory.readBytes s.mem rxbufBase s.rxLen.toNat = some B ∧ L = stripEol B := by
  unfold rxLine at h
  split at h
  · cases h
  · split at h
    · rename_i B hB
      injection h with h
      exact ⟨by omega, B, hB, h.symm⟩
    · cases h

end Sys2Proof.Machine
end

