-- ==== Sys2Proof/Laws/Exec.lean ====
section
/-! SUPPORT. What `exec` can do, once: refused while faulted, failed with an error, or the effect of the rule. -/

namespace Sys2Proof.Machine

theorem frameError_codes {L : List Byte} {e : ErrCode} (h : frameError L = some e) :
    e = .sof ∨ e = .odd ∨ e = .frameHex ∨ e = .lrc := by
  unfold frameError at h
  repeat' split at h
  all_goals (cases h; try simp)

theorem lineVerdict_codes {b : Bool} {L : List Byte} {e : ErrCode} (h : lineVerdict b L = .bad e) :
    e = .empty ∨ e = .short ∨ e = .nonHex ∨ b = true ∧ (e = .sof ∨ e = .odd ∨ e = .frameHex ∨ e = .lrc) := by
  unfold lineVerdict at h
  split at h
  · injection h with h; simp [← h]
  split at h
  · injection h with h; simp [← h]
  split at h
  · injection h with h; simp [← h]
  split at h
  · rename_i hb
    split at h
    · rename_i he
      injection h with h; subst h
      exact .inr (.inr (.inr ⟨hb, frameError_codes he⟩))
    · cases h
  · cases h

theorem lrcVerdict_codes {L : List Byte} {e : ErrCode} (h : lrcVerdict L = some e) :
    e = .empty ∨ e = .short ∨ e = .sof ∨ e = .odd ∨ e = .frameHex ∨ e = .lrc := by
  unfold lrcVerdict at h
  split at h
  · injection h with h; simp [← h]
  split at h
  · injection h with h; simp [← h]
  · rcases frameError_codes h with h | h | h | h <;> simp [h]

/-- A symbol that the word may carry has an entry, and its entry is the row of R85. -/
theorem symtab_some {sym : BitVec 4} (spsel : Bool) (h : sym.toNat ≤ 12) :
    symtab sym spsel = some ⟨mapBase sym.toNat spsel, mapLen sym.toNat, mapScoped sym.toNat⟩ := by
  revert sym; cases spsel <;> decide

theorem symtab_none {sym : BitVec 4} (spsel : Bool) (h : 12 < sym.toNat) : symtab sym spsel = none := by
  revert sym; cases spsel <;> decide

theorem mapAddr_eq (sym : Nat) (spsel : Bool) (c : Nat) :
    resolveAddr ⟨mapBase sym spsel, mapLen sym, mapScoped sym⟩ c = mapAddr sym spsel c := rfl

theorem setWidth8_eq (w : Word) : w.setWidth 8 = BitVec.ofNat 8 w.toNat := by
  apply BitVec.eq_of_toNat_eq; simp

theorem setWidth16_eq (w : Word) : w.setWidth 16 = BitVec.ofNat 16 w.toNat := by
  apply BitVec.eq_of_toNat_eq; simp

/-- The frame that an encode command emits stands in TXBUF, and no other byte changes. -/
theorem emit_emits (fc slave : Byte) (a d : Half) (s : State) :
    EmitsFrame fc slave a d s (.next (s.emit fc slave a d)) := by
  have hl : (requestText fc slave a d).length = 17 := requestText_length fc slave a d
  have hr := Memory.readBytes_writeBytes s.mem txbufBase (requestText fc slave a d)
  have hm : (s.emit fc slave a d).mem = Memory.writeBytes s.mem txbufBase (requestText fc slave a d) := rfl
  rw [hl] at hr
  refine ⟨s.emit fc slave a d, rfl, rfl, ?_, fun x hx => ?_⟩
  · rw [hm]
    exact hr
  · rw [hm]
    exact Memory.read_writeBytes_outside (by rw [hl]; exact hx)

/-- The state after a command that ends in the error e (R69, R80, R104). -/
def failed (i : Instr) (e : ErrCode) (s : State) : State :=
  if isEncode i = true ∧ e ≠ .illegal then s.encFail e else if readsLine i then s.rxFail e else s.raise e

theorem encFail_failed {i : Instr} {e : ErrCode} {s : State} (hi : isEncode i = true) (he : e ≠ .illegal) :
    s.encFail e = failed i e s := by
  simp [failed, hi, he]

theorem rxFail_failed {i : Instr} {e : ErrCode} {s : State} (hi : isEncode i = false) (hl : readsLine i = true) :
    s.rxFail e = failed i e s := by
  simp [failed, hi, hl]

theorem raise_failed {i : Instr} {e : ErrCode} {s : State} (hi : isEncode i = false) (hl : readsLine i = false) :
    s.raise e = failed i e s := by
  simp [failed, hi, hl]

/-- What a successful command does to the state s, giving t. -/
def Succeeds : Instr → State → State → Prop
  | .nop, s, t => t = s.setErr .ok
  | .encRead ch, s, t => ∃ slave d, t = s.emit 0x03 slave (BitVec.ofNat 16 (rawAddr ch s)) d
  | .encWrite ch, s, t => ∃ slave d, t = s.emit 0x06 slave (BitVec.ofNat 16 (rawAddr ch s)) d
  | .encReadSym _, s, t => ∃ slave a d, t = s.emit 0x03 slave a d
  | .encWriteSym _, s, t => ∃ slave a d, t = s.emit 0x06 slave a d
  | .resolve sym, s, t => ∃ row, symtab sym s.spsel = some row ∧ resolveAddr row s.chan.toNat ≤ Config.addrMax ∧
      t = { s with
        resAddr := BitVec.ofNat 32 (resolveAddr row s.chan.toNat)
        resLen := BitVec.ofNat 32 row.len
        resScoped := if row.chScoped then 1 else 0
        err := .ok }
  | .bindChan, s, t => s.lock = false ∧ 1 ≤ s.chan.toNat ∧ s.chan.toNat ≤ s.chcount.toNat ∧
      t = { s with lock := true, err := .ok }
  | .decode, s, t => ∃ L p, rxLine s = .line L ∧ lineVerdict s.lrcen L = .good p ∧ t = s.rxGood L p
  | .decodeTemp, s, t => ∃ L p, rxLine s = .line L ∧ lineVerdict s.lrcen L = .good p ∧ t = (s.rxGood L p).storeTemp p
  | .decodePstate, s, t => ∃ L p, rxLine s = .line L ∧ lineVerdict s.lrcen L = .good p ∧ t = (s.rxGood L p).storePstate p
  | .lrcCheck, s, t => ∃ L, rxLine s = .line L ∧ lrcVerdict L = none ∧ t = { s with lrcok := true, err := .ok }
  | .softReset, _, _ => False
  | .fc03ReadHolding _ _ _ _, _, _ => False
  | .fc06WriteSingle _ _ _ _, _, _ => False

/-- A command other than SOFT_RESET that answers a next state: refused while FAULT = 1, ended by an error, or successful. -/
theorem exec_command_cases {i : Instr} {s t : State} (hc : isCommand i = true) (hr : i ≠ .softReset)
    (h : exec i s = .next t) :
    (s.fault = true ∧ t = s.setErr .faulted) ∨
    (s.fault = false ∧ ∃ e, e ≠ .ok ∧ e ≠ .faulted ∧ (readsLine i = true → e ≠ .contract ∧ e ≠ .illegal) ∧ t = failed i e s) ∨
    (s.fault = false ∧ Succeeds i s t) := by
  cases i <;> simp only [exec] at h <;> first | cases hc; done | skip
  case softReset => exact absurd rfl hr
  case nop =>
    rcases whenNotFaulted_cases h with ⟨hf, e⟩ | ⟨hf, e⟩ <;> injection e with e
    · exact .inl ⟨hf, e⟩
    · exact .inr (.inr ⟨hf, e.symm⟩)
  case encRead ch | encWrite ch =>
    simp only [execEncRead, execEncWrite] at h
    unfold encodeRaw at h
    rcases whenNotFaulted_cases h with ⟨hf, e⟩ | ⟨hf, e⟩
    · injection e with e; exact .inl ⟨hf, e⟩
    repeat' split at e
    all_goals (injection e with e; subst e)
    all_goals first
      | exact .inr (.inl ⟨hf, _, by decide, by decide, by simp [readsLine], encFail_failed rfl (by decide)⟩)
      | exact .inr (.inr ⟨hf, _, _, rfl⟩)
  case encReadSym sym | encWriteSym sym =>
    simp only [execEncReadSym, execEncWriteSym] at h
    split at h
    · have e := illegalWord_next h
      cases hf : s.fault <;> simp only [hf] at e
      · exact .inr (.inl ⟨rfl, .illegal, by decide, by decide, by simp [readsLine], by
          rw [e]; simp [failed, readsLine, State.raise, State.setErr, hf]⟩)
      · exact .inl ⟨rfl, e⟩
    rcases whenNotFaulted_cases h with ⟨hf, e⟩ | ⟨hf, e⟩
    · injection e with e; exact .inl ⟨hf, e⟩
    repeat' split at e
    all_goals (injection e with e; subst e)
    all_goals first
      | exact .inr (.inl ⟨hf, _, by decide, by decide, by simp [readsLine], encFail_failed rfl (by decide)⟩)
      | exact .inr (.inr ⟨hf, _, _, _, rfl⟩)
  case resolve sym =>
    unfold execResolve at h
    split at h
    · have e := illegalWord_next h
      cases hf : s.fault <;> simp only [hf] at e
      · exact .inr (.inl ⟨rfl, .illegal, by decide, by decide, by simp [readsLine], by
          rw [e]; simp [failed, isEncode, readsLine, State.raise, State.setErr, hf]⟩)
      · exact .inl ⟨rfl, e⟩
    rename_i row hrow
    rcases whenNotFaulted_cases h with ⟨hf, e⟩ | ⟨hf, e⟩
    · injection e with e; exact .inl ⟨hf, e⟩
    split at e
    · injection e with e; subst e
      exact .inr (.inl ⟨hf, _, by decide, by decide, by simp [readsLine], raise_failed rfl rfl⟩)
    split at e
    · injection e with e; subst e
      exact .inr (.inl ⟨hf, _, by decide, by decide, by simp [readsLine], raise_failed rfl rfl⟩)
    · injection e with e; subst e
      exact .inr (.inr ⟨hf, row, hrow, by omega, rfl⟩)
  case bindChan =>
    unfold execBindChan at h
    rcases whenNotFaulted_cases h with ⟨hf, e⟩ | ⟨hf, e⟩
    · injection e with e; exact .inl ⟨hf, e⟩
    split at e
    · injection e with e; subst e
      exact .inr (.inl ⟨hf, _, by decide, by decide, by simp [readsLine], raise_failed rfl rfl⟩)
    split at e
    · injection e with e; subst e
      exact .inr (.inl ⟨hf, _, by decide, by decide, by simp [readsLine], raise_failed rfl rfl⟩)
    · rename_i hl hn
      injection e with e; subst e
      exact .inr (.inr ⟨hf, by simpa using hl, by omega, by omega, rfl⟩)
  case decode | decodeTemp | decodePstate =>
    simp only [execDecode, execDecodeTemp, execDecodePstate] at h
    unfold decodeThen at h
    rcases whenNotFaulted_cases h with ⟨hf, e⟩ | ⟨hf, e⟩
    · injection e with e; exact .inl ⟨hf, e⟩
    split at e
    · injection e with e; subst e
      exact .inr (.inl ⟨hf, _, by decide, by decide, by simp, rxFail_failed rfl rfl⟩)
    · cases e
    rename_i L hL
    split at e
    · rename_i hv
      injection e with e; subst e
      have hc := lineVerdict_codes hv
      exact .inr (.inl ⟨hf, _, by rintro rfl; simp at hc, by rintro rfl; simp at hc,
        fun _ => ⟨by rintro rfl; simp at hc, by rintro rfl; simp at hc⟩, rxFail_failed rfl rfl⟩)
    · rename_i p hv
      injection e with e; subst e
      exact .inr (.inr ⟨hf, L, p, hL, hv, rfl⟩)
  case lrcCheck =>
    unfold execLrcCheck at h
    rcases whenNotFaulted_cases h with ⟨hf, e⟩ | ⟨hf, e⟩
    · injection e with e; exact .inl ⟨hf, e⟩
    split at e
    · injection e with e; subst e
      exact .inr (.inl ⟨hf, _, by decide, by decide, by simp, rxFail_failed rfl rfl⟩)
    · cases e
    rename_i L hL
    split at e
    · rename_i hv
      injection e with e; subst e
      have hc := lrcVerdict_codes hv
      exact .inr (.inl ⟨hf, _, by rintro rfl; simp at hc, by rintro rfl; simp at hc,
        fun _ => ⟨by rintro rfl; simp at hc, by rintro rfl; simp at hc⟩, rxFail_failed rfl rfl⟩)
    · rename_i hv
      injection e with e; subst e
      exact .inr (.inr ⟨hf, L, hL, hv, rfl⟩)

end Sys2Proof.Machine
end

