-- ==== Sys2Proof/Laws/PerInstr.lean ====
section
/-! SUPPORT. Facts of every instruction as syntax, one lemma per constructor: the shape of its code (R51, R56). -/

namespace Sys2Proof.Laws.EncodingShape

open Sys2Proof

/-- A command's code is a word whose reserved bits [31:9] are 0 (R51); a wire frame's is a line of 17 characters (R56). -/
def Statement (i : Instr) : Prop :=
  match encode i with
  | .command w => rsvField w = 0
  | .line t => t.length = 17

theorem nop : Statement .nop := rfl
theorem encRead (ch : Bool) : Statement (.encRead ch) := by cases ch <;> rfl
theorem encWrite (ch : Bool) : Statement (.encWrite ch) := by cases ch <;> rfl
theorem encReadSym (sym : BitVec 4) : Statement (.encReadSym sym) := by
  have h : ∀ x : BitVec 4, rsvField (0x00000003 ||| symBits x) = 0 := by decide
  exact h sym
theorem encWriteSym (sym : BitVec 4) : Statement (.encWriteSym sym) := by
  have h : ∀ x : BitVec 4, rsvField (0x00000004 ||| symBits x) = 0 := by decide
  exact h sym
theorem resolve (sym : BitVec 4) : Statement (.resolve sym) := by
  have h : ∀ x : BitVec 4, rsvField (0x00000005 ||| symBits x) = 0 := by decide
  exact h sym
theorem bindChan : Statement .bindChan := rfl
theorem decode : Statement .decode := rfl
theorem decodeTemp : Statement .decodeTemp := rfl
theorem decodePstate : Statement .decodePstate := rfl
theorem lrcCheck : Statement .lrcCheck := rfl
theorem softReset : Statement .softReset := rfl
theorem fc03ReadHolding (slave : Byte) (addr count : Half) (lrc : Byte) :
    Statement (.fc03ReadHolding slave addr count lrc) := rfl
theorem fc06WriteSingle (slave : Byte) (addr value : Half) (lrc : Byte) :
    Statement (.fc06WriteSingle slave addr value lrc) := rfl

end Sys2Proof.Laws.EncodingShape
end

