-- ==== Sys2Proof/Laws/Step.lean ====
section
/-! SUPPORT. What one step can do, said once. -/

namespace Sys2Proof.Machine

theorem step_idle {s : State} (h : s.pending = []) : step s = .next s := by
  unfold step; rw [h]

theorem step_instr {s : State} {op : HostOp} {rest : List HostOp} {i : Instr} (h : s.pending = op :: rest)
    (hf : fetch op = .instr i) : step s = exec i { s with pending := rest } := by
  unfold step; simp only [h, hf]

theorem step_illegal {s : State} {op : HostOp} {rest : List HostOp} (h : s.pending = op :: rest)
    (hf : fetch op = .illegal) : step s = illegalWord { s with pending := rest } := by
  unfold step; simp only [h, hf]

theorem step_access {s : State} {op : HostOp} {rest : List HostOp} (h : s.pending = op :: rest)
    (hf : fetch op = .access) : step s = hostAccess op { s with pending := rest } := by
  unfold step; simp only [h, hf]

/-- A step is idle, runs an instruction, refuses an illegal word, or makes a host access. -/
theorem step_cases {s : State} {r : Result} (h : step s = r) :
    (s.pending = [] ∧ r = .next s) ∨
    (∃ op rest i, s.pending = op :: rest ∧ fetch op = .instr i ∧ r = exec i { s with pending := rest }) ∨
    (∃ op rest, s.pending = op :: rest ∧ fetch op = .illegal ∧ r = illegalWord { s with pending := rest }) ∨
    (∃ op rest, s.pending = op :: rest ∧ fetch op = .access ∧ r = hostAccess op { s with pending := rest }) := by
  subst h
  cases hp : s.pending with
  | nil => exact .inl ⟨rfl, step_idle hp⟩
  | cons op rest =>
    cases hf : fetch op with
    | instr i => exact .inr (.inl ⟨op, rest, i, rfl, hf, step_instr hp hf⟩)
    | illegal => exact .inr (.inr (.inl ⟨op, rest, rfl, hf, step_illegal hp hf⟩))
    | access => exact .inr (.inr (.inr ⟨op, rest, rfl, hf, step_access hp hf⟩))

/-! What each input is fetched as. -/

theorem fetch_cmd (w : Word) :
    fetch (.write32 0x000 w) =
      match decode (.command w) with
      | some i => .instr i
      | none => .illegal :=
  if_pos (e := Fetched.access) (show 0x000 = regOffset .cmd by decide)

theorem fetch_command {w : Word} {i : Instr} (h : decode (.command w) = some i) : fetch (.write32 0x000 w) = .instr i := by
  rw [fetch_cmd, h]

theorem fetch_illegal {w : Word} (h : decode (.command w) = none) : fetch (.write32 0x000 w) = .illegal := by
  rw [fetch_cmd, h]

theorem fetch_write32 {off : Nat} (v : Word) (h : off ≠ 0) : fetch (.write32 off v) = .access := by
  have h0 : off ≠ regOffset .cmd := h
  exact if_neg h0

theorem fetch_frame {text : List Byte} {i : Instr} (h : decode (.line text) = some i) : fetch (.line text) = .instr i := by
  unfold fetch
  simp only [h]

theorem fetch_line {text : List Byte} (h : decode (.line text) = none) : fetch (.line text) = .access := by
  unfold fetch
  simp only [h]

@[simp] theorem fetch_read (w : Width) (off : Nat) : fetch (.read w off) = .access := rfl
@[simp] theorem fetch_write8 (off : Nat) (v : Byte) : fetch (.write8 off v) = .access := rfl
@[simp] theorem fetch_write16 (off : Nat) (v : Half) : fetch (.write16 off v) = .access := rfl
@[simp] theorem fetch_resetInput : fetch .resetInput = .access := rfl

end Sys2Proof.Machine
end

