-- ==== Sys2Proof/Machine/HostValues.lean ====
section
/-! DEFINITION. What the host knows of TMAC's and the device's values: the names of the Register Map's symbols (R61, R85),
the codes the host writes and reads (R93 to R97) and the classes of the error codes (R102). TMAC interprets none of them
beyond its rules (U18, U19); no step uses this file. -/

namespace Sys2Proof.Machine

/-- The symbols of R85, in the order of their indices. -/
inductive Symbol where
  | channelCount | temperature | setPoint | timeLeftStanding | startupProgramNumber | startupStepNumber | processControl
  | programEditNumber | stepEditNumber | stepKind | stepParam1 | stepParam2 | stepTransitionCondition
deriving DecidableEq, Repr

/-- R85: the index of a symbol, the SYM field of a command that names it (R61). -/
def Symbol.index : Symbol → BitVec 4
  | .channelCount => 0
  | .temperature => 1
  | .setPoint => 2
  | .timeLeftStanding => 3
  | .startupProgramNumber => 4
  | .startupStepNumber => 5
  | .processControl => 6
  | .programEditNumber => 7
  | .stepEditNumber => 8
  | .stepKind => 9
  | .stepParam1 => 10
  | .stepParam2 => 11
  | .stepTransitionCondition => 12

/-- R93: the value written to ProcessControl by stop, start and pause; none for Undefined, which nobody writes. -/
def processControlValue : ProcState → Option Word
  | .stop => some 0
  | .run => some 1
  | .pause => some 2
  | .undefined => none

/-- R94: program and step numbers are 1-based for the user and stored 0-based. None for 0, which is no such number. -/
def storedNumber (n : Nat) : Option Nat := if n = 0 then none else some (n - 1)

/-- The step kinds of R95. -/
inductive StepKind where
  | heatingOrCooling | exposure | goto | stop
deriving DecidableEq, Repr

/-- R95. Only Exposure's code is the source's own; the others follow its listing order. -/
def StepKind.code : StepKind → Word
  | .heatingOrCooling => 0
  | .exposure => 1
  | .goto => 2
  | .stop => 3

/-- The transition conditions of R96. -/
inductive Transition where
  | calculatedTemperatureReachesSetpoint | manualAcceptance | measuredTemperatureReachesSetpoint
deriving DecidableEq, Repr

/-- R96. Only the measured temperature's code is the source's own; the others follow its listing order. -/
def Transition.code : Transition → Word
  | .calculatedTemperatureReachesSetpoint => 0
  | .manualAcceptance => 1
  | .measuredTemperatureReachesSetpoint => 2

/-- R97: a temperature or set-point register counts tenths of a degree: whole degrees and tenths. -/
def tenths (v : Nat) : Nat × Nat := (v / 10, v % 10)

/-- The classes of the source's error taxonomy (R102). -/
inductive ErrClass where
  | parse | protocol | connectivity | range | contract | interface
deriving DecidableEq, Repr

/-- R102: the classes a code belongs to. PartialConfigurationError has no code; OK is no error. -/
def ErrCode.classes : ErrCode → List ErrClass
  | .ok => []
  | .empty => [.parse, .connectivity]
  | .short => [.parse, .protocol]
  | .nonHex => [.parse, .protocol]
  | .sof => [.protocol]
  | .odd => [.protocol]
  | .frameHex => [.protocol]
  | .lrc => [.protocol]
  | .overlong => [.protocol]
  | .rangeSlave => [.range]
  | .rangeAddr => [.range]
  | .rangeValue => [.range]
  | .rangeOffset => [.range]
  | .rangeChannel => [.range]
  | .illegal => [.interface]
  | .locked => [.interface]
  | .faulted => [.interface]
  | .contract => [.contract]

end Sys2Proof.Machine
end

