-- ==== Sys2Proof/Tests/Slice0.lean ====
section
/-! SUPPORT. Tests. Every expected value is taken from spec/ (the encodings of 30_encoding.md and the vectors of
95_test_vectors.md, named in each comment), never from the model. The witnesses show that the hypotheses of the
obligations can be met, each clause at a boundary value. -/

namespace Sys2Proof.Tests

open Sys2Proof Sys2Proof.Machine

/-! ## Helpers -/

/-- The outcome is a next state with the property. -/
def nextAnd (r : Result) (p : State → Bool) : Bool :=
  match r with
  | .next t => p t
  | .fault _ => false
  | .refused _ => false

/-- The outcome is this fault. -/
def faults (r : Result) (f : Fault) : Bool :=
  match r with
  | .next _ => false
  | .fault g => decide (g = f)
  | .refused _ => false

/-- Characters as bytes (R12). -/
def asc (cs : List Char) : List Byte := cs.map fun c => BitVec.ofNat 8 c.toNat

/-- SLAVE = 2, after reset: where the vectors start. -/
def start : State := { State.reset with slave := 2 }

/-- Channel c bound out of n. -/
def bound (c n : Word) : State := { start with chan := c, chcount := n, lock := true }

/-- A line loaded, LRCEN as given. -/
def lineIn (lrcen : Bool) (cs : List Char) : State :=
  { start with
    lrcen := lrcen
    mem := Memory.writeBytes [] rxbufBase (asc cs)
    rxLen := BitVec.ofNat 32 cs.length }

/-- After a contract violation. -/
def broken : State := { start with err := .contract, fault := true }

/-- `:020301300001C9` (E-1). -/
def e1 : List Char := [':', '0', '2', '0', '3', '0', '1', '3', '0', '0', '0', '0', '1', 'C', '9']

/-- `:0203020002F7` (D-1). -/
def d1 : List Char := [':', '0', '2', '0', '3', '0', '2', '0', '0', '0', '2', 'F', '7']

/-- CR LF. -/
def crlf : List Byte := [0x0D, 0x0A]

/-! ## WellFormed refuses, decoding refuses -/

/-- R53: SYM 13 names no symbol. -/
theorem test_wellFormed_refuses_bad_symbols :
    Instr.wellFormed (.encReadSym 13) = false ∧ Instr.wellFormed (.encWriteSym 14) = false ∧
    Instr.wellFormed (.resolve 15) = false := by decide

/-- R53: reserved opcode, reserved bit, CH on a plain opcode, SYM on a plain opcode, SYM 13. -/
theorem test_decode_refuses_illegal_words :
    decode (.command 0x0000000B) = none ∧ decode (.command 0x0000000E) = none ∧ decode (.command 0x00000200) = none ∧
    decode (.command 0x80000001) = none ∧ decode (.command 0x00000100) = none ∧ decode (.command 0x00000103) = none ∧
    decode (.command 0x00000011) = none ∧ decode (.command 0x0000001F) = none ∧ decode (.command 0x000000D3) = none := by
  decide

/-- Another function code, a lower-case digit, a missing terminator: no request frame. -/
theorem test_decode_refuses_other_lines :
    decode (.line (asc [':', '0', '2', '0', '4', '0', '1', '3', '0', '0', '0', '0', '1', 'C', '8'] ++ crlf)) = none ∧
    decode (.line (asc [':', '0', '2', '0', '3', '0', '1', '3', '0', '0', '0', '0', '1', 'c', '9'] ++ crlf)) = none ∧
    decode (.line (asc e1)) = none ∧ decode (.line []) = none := by decide

/-! ## One word of every instruction, written out bit by bit: RSV CH SYM OP (R51, R52) -/

theorem test_decode_nop : decode (.command 0b00000000000000000000000_0_0000_0000) = some .nop := by decide
theorem test_decode_encRead : decode (.command 0b00000000000000000000000_1_0000_0001) = some (.encRead true) := by decide
theorem test_decode_encWrite : decode (.command 0b00000000000000000000000_0_0000_0010) = some (.encWrite false) := by decide
theorem test_decode_encReadSym : decode (.command 0b00000000000000000000000_0_0110_0011) = some (.encReadSym 6) := by decide
theorem test_decode_encWriteSym : decode (.command 0b00000000000000000000000_0_1011_0100) = some (.encWriteSym 11) := by decide
theorem test_decode_resolve : decode (.command 0b00000000000000000000000_0_1100_0101) = some (.resolve 12) := by decide
theorem test_decode_bindChan : decode (.command 0b00000000000000000000000_0_0000_0110) = some .bindChan := by decide
theorem test_decode_decode : decode (.command 0b00000000000000000000000_0_0000_0111) = some .decode := by decide
theorem test_decode_decodeTemp : decode (.command 0b00000000000000000000000_0_0000_1000) = some .decodeTemp := by decide
theorem test_decode_decodePstate : decode (.command 0b00000000000000000000000_0_0000_1001) = some .decodePstate := by decide
theorem test_decode_lrcCheck : decode (.command 0b00000000000000000000000_0_0000_1010) = some .lrcCheck := by decide
theorem test_decode_softReset : decode (.command 0b00000000000000000000000_0_0000_1111) = some .softReset := by decide

/-- E-1's frame. -/
theorem test_decode_fc03 : decode (.line (asc e1 ++ crlf)) = some (.fc03ReadHolding 0x02 0x0130 0x0001 0xC9) := by decide

/-- E-40's frame `:0206016409C4C6`. -/
theorem test_decode_fc06 :
    decode (.line (asc [':', '0', '2', '0', '6', '0', '1', '6', '4', '0', '9', 'C', '4', 'C', '6'] ++ crlf)) =
      some (.fc06WriteSingle 0x02 0x0164 0x09C4 0xC6) := by decide

/-- Log 7: the 56 bits of E-1's frame, its byte b0 = 02 lowest: C9 00 01 01 30 03 02. -/
theorem test_decodeTableWord_fc03 :
    decodeTableWord 56 0xC9010030010302 = some (.fc03ReadHolding 0x02 0x0130 0x0001 0xC9) := by decide

/-- The host's question: a row's word is fetched and run as the first instruction after reset. -/
theorem test_first_instruction_after_reset :
    nextAnd (step (State.reset.withFetchWord 32 0x00000005)) (fun t => decide (t.resAddr = 0x0130) && t.pending.isEmpty) = true ∧
    nextAnd (step (State.reset.withFetchWord 56 0xC9010030010302)) (fun t => decide (t.rxLen = 17)) = true := by decide

/-! ## The encode commands (vectors of family 1) -/

/-- E-1, E-5. -/
theorem test_encRead :
    nextAnd (exec (.encRead false) { start with addr := 0x130, value := 1 }) (fun t =>
      decide (Memory.readBytes t.mem txbufBase 17 = some (asc e1 ++ crlf)) && decide (t.txLrc = 0xC9) && decide (t.txLen = 17)) = true ∧
    nextAnd (exec (.encRead true) { bound 2 4 with addr := 0x130, value := 1 }) (fun t =>
      decide (t.txLrc = 0xC5) && decide (t.err = .ok)) = true := by decide

/-- E-7: CH = 1 with LOCK = 0. -/
theorem test_encRead_unbound :
    nextAnd (exec (.encRead true) { start with addr := 0x170, value := 4 }) (fun t =>
      decide (t.err = .contract) && t.fault && decide (t.txLen = 0)) = true := by decide

/-- E-9: all fields at their maximum; E-10: the checksum is 0x00, not 0x100. -/
theorem test_encWrite :
    nextAnd (exec (.encWrite false) { start with slave := 0xFF, addr := 0xFFFF, value := 0xFFFF }) (fun t =>
      decide (Memory.readBytes t.mem txbufBase 17 =
        some (asc [':', 'F', 'F', '0', '6', 'F', 'F', 'F', 'F', 'F', 'F', 'F', 'F', 'F', 'F'] ++ crlf))) = true ∧
    nextAnd (exec (.encWrite false) { start with slave := 0, value := 0xFA }) (fun t => decide (t.txLrc = 0) && decide (t.txLen = 17)) = true := by
  decide

/-- E-14: 0xFC00 + 0x0400 does not wrap; E-18: slave before address before value. -/
theorem test_encWrite_errors :
    nextAnd (exec (.encWrite true) { bound 2 4 with addr := 0xFC00 }) (fun t => decide (t.err = .rangeOffset) && !t.fault) = true ∧
    nextAnd (exec (.encWrite false) { start with slave := 0x100, addr := 0x10000, value := 0x10000 })
      (fun t => decide (t.err = .rangeSlave)) = true := by decide

/-- E-22, E-30. -/
theorem test_encReadSym :
    nextAnd (exec (.encReadSym 1) (bound 1 4)) (fun t => decide (t.txLrc = 0x86) && decide (t.err = .ok)) = true ∧
    nextAnd (exec (.encReadSym 6) (bound 65 100)) (fun t => decide (t.err = .rangeOffset) && decide (t.txLen = 0)) = true := by
  decide

/-- E-26: SPSEL = 1 selects 0x0173. -/
theorem test_encReadSym_setPoint :
    nextAnd (exec (.encReadSym 2) { bound 1 4 with spsel := true }) (fun t =>
      decide (Memory.readBytes t.mem txbufBase 17 =
        some (asc [':', '0', '2', '0', '3', '0', '1', '7', '3', '0', '0', '0', '1', '8', '6'] ++ crlf))) = true := by decide

/-- E-42: channel 64 is the highest that fits. -/
theorem test_encWriteSym :
    nextAnd (exec (.encWriteSym 6) { bound 64 64 with value := 1 }) (fun t =>
      decide (Memory.readBytes t.mem txbufBase 17 =
        some (asc [':', '0', '2', '0', '6', 'F', 'D', '8', '0', '0', '0', '0', '1', '7', 'A'] ++ crlf))) = true := by decide

/-- E-38, E-41. -/
theorem test_encWriteSym_more :
    nextAnd (exec (.encWriteSym 6) { bound 1 4 with value := 0x10000 }) (fun t => decide (t.err = .rangeValue)) = true ∧
    nextAnd (exec (.encWriteSym 0) { start with value := 7 }) (fun t => decide (t.txLrc = 0xC0)) = true := by decide

/-! ## The Register Map commands (families 6, 7) -/

/-- Temperature on channel 4; SetPoint with SPSEL = 1 on channel 2. -/
theorem test_resolve :
    nextAnd (exec (.resolve 1) (bound 4 4)) (fun t =>
      decide (t.resAddr = 0x0D70) && decide (t.resLen = 4) && decide (t.resScoped = 1)) = true ∧
    nextAnd (exec (.resolve 2) { bound 2 4 with spsel := true }) (fun t => decide (t.resAddr = 0x0573)) = true := by decide

/-- R-6; R-5; unbound Temperature. -/
theorem test_resolve_errors :
    nextAnd (exec (.resolve 1) (bound 65 100)) (fun t => decide (t.err = .rangeOffset) && decide (t.resAddr = 0)) = true ∧
    nextAnd (exec (.resolve 0) (bound 65 100)) (fun t => decide (t.resAddr = 0x0130)) = true ∧
    nextAnd (exec (.resolve 1) start) (fun t => decide (t.err = .contract) && t.fault) = true := by decide

/-- B-2, B-3, B-4. -/
theorem test_bindChan :
    nextAnd (exec .bindChan { start with chcount := 2, chan := 2 }) (fun t => t.lock && decide (t.err = .ok)) = true ∧
    nextAnd (exec .bindChan { start with chcount := 2, chan := 3 }) (fun t => !t.lock && decide (t.err = .rangeChannel)) = true ∧
    nextAnd (exec .bindChan { start with chcount := 2, chan := 0 }) (fun t => !t.lock && decide (t.err = .rangeChannel)) = true := by
  decide

/-- B-9: STATUS = 0x00000221. -/
theorem test_bindChan_locked : nextAnd (exec .bindChan (bound 1 2)) (fun t => decide (t.statusWord = 0x00000221)) = true := by
  decide

/-! ## The commands that read the line (families 2 to 5) -/

/-- D-2: STATUS has LRCOK, EV and DV. -/
theorem test_decode :
    nextAnd (exec .decode (lineIn true (d1 ++ ['\r', '\n']))) (fun t =>
      decide (t.rxPayload = 0x0002) && decide (t.rxEcho = 0x0200) && decide (t.rxData = 0x02F7) &&
        decide (t.statusWord = 0x1C00)) = true := by decide

/-- D-22: `:02030Z0002F7`, lenient, no echo; strict (D-21) E_FRAMEHEX. -/
theorem test_decode_framehex :
    nextAnd (exec .decode (lineIn false [':', '0', '2', '0', '3', '0', 'Z', '0', '0', '0', '2', 'F', '7'])) (fun t =>
      decide (t.rxPayload = 2) && !t.ev && t.dv && decide (t.rxData = 0x02F7) && !t.lrcok) = true ∧
    nextAnd (exec .decode (lineIn true [':', '0', '2', '0', '3', '0', 'Z', '0', '0', '0', '2', 'F', '7'])) (fun t =>
      decide (t.err = .frameHex) && decide (t.rxPayload = 0)) = true := by decide

/-- T-11: the largest payload, `6553.5`. -/
theorem test_decodeTemp :
    nextAnd (exec .decodeTemp (lineIn true [':', '0', '2', '0', '3', '0', '2', 'F', 'F', 'F', 'F', 'F', 'B'])) (fun t =>
      decide (t.tempInt = 6553) && decide (t.tempFrac = 5) && decide (t.decLen = 6) && !t.shortv &&
        decide (Memory.readBytes t.mem decstrBase 6 = some (asc ['6', '5', '5', '3', '.', '5']))) = true := by decide

/-- T-3: payload 5 is `0.5`, SHORTV = 1. -/
theorem test_decodeTemp_short :
    nextAnd (exec .decodeTemp (lineIn true [':', '0', '2', '0', '3', '0', '2', '0', '0', '0', '5', 'F', '4'])) (fun t =>
      decide (t.decLen = 3) && t.shortv &&
        decide (Memory.readBytes t.mem decstrBase 3 = some (asc ['0', '.', '5']))) = true := by decide

/-- PS-3 (Pause); PS-6 (0xFFFF is Undefined). -/
theorem test_decodePstate :
    nextAnd (exec .decodePstate (lineIn true d1)) (fun t => decide (t.pstate = .pause)) = true ∧
    nextAnd (exec .decodePstate { lineIn true [':', '0', '2', '0', '3', '0', '2', 'F', 'F', 'F', 'F', 'F', 'B'] with pstate := .run })
      (fun t => decide (t.pstate = .undefined)) = true := by decide

/-- L-1 and L-5; LRCEN = 0. -/
theorem test_lrcCheck :
    nextAnd (exec .lrcCheck (lineIn false [':', '0', '0'])) (fun t => t.lrcok && decide (t.err = .ok)) = true ∧
    nextAnd (exec .lrcCheck (lineIn false [':', '0', '2', '0', '3', '0', '2', '0', '0', '0', '2', 'F', '8']))
      (fun t => !t.lrcok && decide (t.err = .lrc)) = true := by decide

/-- L-9: the length is checked before the start character; L-12: odd. -/
theorem test_lrcCheck_errors :
    nextAnd (exec .lrcCheck (lineIn false ['X', '0'])) (fun t => decide (t.err = .short)) = true ∧
    nextAnd (exec .lrcCheck (lineIn false (d1 ++ ['A']))) (fun t => decide (t.err = .odd)) = true := by decide

/-! ## Control, frames on the wire, host accesses -/

/-- R98: NOP clears ERR, keeps FAULT (E_FAULTED). -/
theorem test_nop :
    nextAnd (exec .nop { start with err := .lrc }) (fun t => decide (t.statusWord = 0)) = true ∧
    nextAnd (exec .nop broken) (fun t => decide (t.statusWord = 0x130)) = true := by decide

/-- R99, R111: from the faulted state too; CTRL = 1, PSTATE = 3. -/
theorem test_softReset :
    nextAnd (exec .softReset { broken with lrcen := false, pstate := .run }) (fun t => decide (t = State.reset)) = true := by decide

/-- R62: LOADRX of E-1's frame, while FAULT = 1 too. -/
theorem test_fc03 :
    nextAnd (exec (.fc03ReadHolding 0x02 0x0130 0x0001 0xC9) broken) (fun t =>
      decide (Memory.readBytes t.mem 0x100 17 = some (asc e1 ++ crlf)) && decide (t.rxLen = 17) && t.fault) = true := by decide

/-- D-26: an echoed write is loaded, then decoded. -/
theorem test_fc06 :
    nextAnd (exec (.fc06WriteSingle 0x02 0x0180 0x0001 0x76) start) (fun t =>
      nextAnd (exec .decode t) (fun u => decide (u.rxPayload = 0x8000) && decide (u.rxEcho = 0x0180) && decide (u.rxData = 1))) = true := by
  decide

/-- R40: the accesses that are not admitted. -/
theorem test_bus_errors :
    faults (hostAccess (.read .w32 0x002) start) .busError = true ∧ faults (hostAccess (.read .w8 0x004) start) .busError = true ∧
    faults (hostAccess (.read .w32 0x100) start) .busError = true ∧ faults (hostAccess (.read .w32 0x200) start) .busError = true ∧
    faults (hostAccess (.write16 0x00C 1) start) .busError = true := by decide

/-- R22, R41 (d): CHAN ignores writes while LOCK = 1; R27: CTRL stores bits [1:0]. -/
theorem test_host_writes :
    nextAnd (hostAccess (.write32 0x018 9) (bound 1 2)) (fun t => decide (t.chan = 1)) = true ∧
    nextAnd (hostAccess (.write32 0x008 0xFFFFFFFE) start) (fun t => decide (t.ctrlWord = 2)) = true := by decide

/-- D-6: the 27-character Temperature reply (D13's reason for the least RXMAX) decodes with RXMAX = 27; D-28's RXLEN = 65 is
E_OVERLONG with RXMAX = 64 and not with RXMAX = 65. -/
theorem test_rxMax :
    nextAnd (step { State.resetWith 27 with pending := [.line (asc [':', '0', '2', '0', '3', '0', '8', '0', '0', 'E', 'E', '0', '0',
        '0', '0', '0', '0', '0', '0', '0', '0', '0', '0', '0', '5'] ++ crlf)] })
      (fun t => nextAnd (exec .decode t) fun u => decide (u.rxPayload = 0x00EE) && decide (u.err = .ok)) = true ∧
    nextAnd (exec .decode { start with rxLen := 65 }) (fun t => decide (t.err = .overlong)) = true ∧
    faults (exec .decode { start with rxMax := 65, rxLen := 65 }) .unwrittenRxByte = true := by decide

/-- R35: DECODE with RXLEN = 1 and nothing written faults; a host read of that byte does not. -/
theorem test_unwritten :
    faults (exec .decode { start with rxLen := 1 }) .unwrittenRxByte = true ∧
    nextAnd (step { start with pending := [.read .w8 0x100] }) (fun t => decide (t.freeCount = 1)) = true := by decide

/-- R85 and S7 of 95_test_vectors.md: configureStep's third and sixth words and values. -/
theorem test_host_values :
    codeOp (encode (.encWriteSym Symbol.stepKind.index)) = .write32 0x000 0x00000094 ∧ StepKind.code .exposure = 1 ∧
    codeOp (encode (.encWriteSym Symbol.stepTransitionCondition.index)) = .write32 0x000 0x000000C4 ∧
    Transition.code .measuredTemperatureReachesSetpoint = 2 ∧ storedNumber 1 = some 0 ∧ tenths 235 = (23, 5) := by decide

/-- R62, R38: BIND 1, 2 as transactions. -/
theorem test_expand_bind :
    expand 0 (.bind 1 2) = [.write32 0x01C 2, .write32 0x018 1, .write32 0x000 0x00000006] := by decide

/-! ## Witnesses: concrete states and operands that meet the hypotheses of the obligations -/

/-- A state with everything in range, on a bound channel. -/
def ready : State := { bound 1 1 with slave := 0xFF, addr := 0xFFFF, value := 0xFFFF }

/-- A loaded line of exactly 11 characters with a bad checksum (D-23). -/
def d23 : List Char := [':', '0', '2', '0', '3', '0', '2', '0', '0', '0', '2']

/-- An input is pending. -/
def waiting (op : HostOp) (s : State) : State := { s with pending := [op] }

theorem witness_DecodeInvertsEncode : Instr.wellFormed (.resolve 12) = true ∧
    Instr.wellFormed (.fc06WriteSingle 0xFF 0xFFFF 0xFFFF 0x00) = true := by decide

theorem witness_EncodeInvertsDecode : decode (.command 0x000000C4) = some (.encWriteSym 12) ∧
    decode (.line (asc e1 ++ crlf)) = some (.fc03ReadHolding 0x02 0x0130 0x0001 0xC9) := by decide

theorem witness_CommandWordLegality : decode (.command 0x0000000B) = none ∧ decode (.command 0x000000D3) = none ∧
    (waiting (.write32 0x000 0x0000000B) start).pending = .write32 0x000 0x0000000B :: [] ∧
    (⟨0x00000005, 0xFFFFFF0F, true⟩ : CommandRow) ∈ commandTable ∧
    CommandRow.matches ⟨0x00000005, 0xFFFFFF0F, true⟩ 0x000000C5 = true := by decide

theorem witness_StepRunsDecodedInput :
    (waiting (.write32 0x000 0x0000000F) broken).pending = .write32 0x000 0x0000000F :: [] ∧
    decode (.command 0x0000000F) = some .softReset ∧
    (waiting (.line (asc e1 ++ crlf)) start).pending = .line (asc e1 ++ crlf) :: [] ∧
    decode (.line (asc e1 ++ crlf)) = some (.fc03ReadHolding 0x02 0x0130 0x0001 0xC9) ∧ start.pending = [] ∧
    decodeTableWord 32 0x000000C5 = some (.resolve 12) := by decide

theorem witness_HexReadsBackWhatWasWritten : (0x46 : Byte) ∈ hex4 0xF000 ∧ (0x30 : Byte) ∈ hex4 0xF000 := by decide

theorem witness_LrcNegatesTheSum : 0 = (([0x80, 0x80] : List Byte).map BitVec.toNat).sum % 256 ∧
    255 = (([0xFF] : List Byte).map BitVec.toNat).sum % 256 := by decide

theorem witness_RequestFrameLayout : (requestText 0x03 0x02 0x0130 0x0001)[1]? = some 0x30 ∧
    (requestText 0x03 0x02 0x0130 0x0001)[14]? = some 0x39 := by decide

/-- The clauses of `RawEncodeRule`, for O11 and O12: faulted, unbound, slave, address, value, offset, frame. -/
theorem witness_EncReadFollowsItsRule :
    broken.fault = true ∧ (start.fault = false ∧ start.lock = false) ∧ (ready.lock = true → 1 ≤ ready.chan.toNat) ∧
    (ready.fault = false ∧ ready.lock = true ∧ 0xFF < ({ ready with slave := 0x100 } : State).slave.toNat) ∧
    (ready.slave.toNat ≤ 0xFF ∧ 0xFFFF < ({ ready with addr := 0x10000 } : State).addr.toNat) ∧
    (ready.addr.toNat ≤ 0xFFFF ∧ 0xFFFF < ({ ready with value := 0x10000 } : State).value.toNat) ∧
    (ready.value.toNat ≤ 0xFFFF ∧ 0xFFFF < 0xFC00 + 0x0400 * ((bound 2 4).chan.toNat - 1)) ∧
    ready.addr.toNat + 0x0400 * (ready.chan.toNat - 1) = 0xFFFF := by decide

theorem witness_EncWriteFollowsItsRule :
    nextAnd (exec (.encWrite true) { bound 2 4 with addr := 0xFBFF }) (fun t => decide (t.err = .ok)) = true ∧
    nextAnd (exec (.encWrite true) { bound 2 4 with addr := 0xFC00 }) (fun t => decide (t.err = .rangeOffset)) = true := by
  decide

/-- The least RXMAX, the spec's and a larger one meet R8's bound. -/
theorem witness_rxMaxValid : ready.rxMaxValid ∧ (State.resetWith 27).rxMaxValid ∧ (State.resetWith 300).rxMaxValid := by
  unfold State.rxMaxValid; decide

/-- `ready`, `start` and `broken` meet the premise of the channel offset. -/
theorem witness_channelValid : ready.channelValid ∧ start.channelValid ∧ broken.channelValid ∧ (bound 64 64).channelValid := by
  unfold State.channelValid; decide

/-- The clauses of `SymEncodeRule`, for O13 and O14. -/
theorem witness_EncReadSymFollowsItsRule :
    (12 : BitVec 4).toNat ≤ 12 ∧ broken.fault = true ∧ (start.fault = false ∧ start.lock = false ∧ mapScoped 12 = true) ∧
    mapScoped 0 = false ∧ (ready.fault = false ∧ ready.lock = true ∧ ready.slave.toNat ≤ 0xFF) ∧
    mapAddr 6 false (bound 64 64).chan.toNat ≤ 0xFFFF ∧ 0xFFFF < mapAddr 6 false (bound 65 65).chan.toNat := by decide

theorem witness_EncWriteSymFollowsItsRule : ready.value.toNat ≤ 0xFFFF ∧
    0xFFFF < ({ ready with value := 0x10000 } : State).value.toNat := by decide

theorem witness_ResolveFollowsItsRule : (12 : BitVec 4).toNat ≤ 12 ∧ broken.fault = true ∧
    (start.fault = false ∧ start.lock = false ∧ mapScoped 1 = true ∧ mapScoped 0 = false) ∧
    (ready.fault = false ∧ ready.lock = true) ∧
    mapAddr 1 false (bound 64 64).chan.toNat ≤ 0xFFFF ∧ 0xFFFF < mapAddr 1 false (bound 65 65).chan.toNat := by decide

theorem witness_ChannelOffsetProperty : symtab 12 false = some ⟨0x0165, 1, true⟩ ∧ symtab 0 true = some ⟨0x0130, 1, false⟩ := by
  decide

theorem witness_BindChanFollowsItsRule : broken.fault = true ∧ (start.fault = false ∧ start.lock = false ∧ start.chan.toNat < 1) ∧
    (bound 1 1).lock = true ∧ 1 ≤ ({ start with chan := 1, chcount := 1 } : State).chan.toNat ∧
    ({ start with chcount := 2 } : State).chcount.toNat < ({ start with chan := 3 } : State).chan.toNat := by decide

theorem witness_LockFreezesTheChannel : (waiting (.write32 0x018 9) (bound 1 2)).lock = true ∧
    nextAnd (step (waiting (.write32 0x018 9) (bound 1 2))) (fun t => decide (t.chan = 1)) = true ∧
    isReset (.write32 0x018 9) = false := by decide

theorem witness_ReceivedLineIsStripped : start.rxMax < ({ start with rxLen := 65 } : State).rxLen.toNat ∧
    ({ start with rxLen := 64 } : State).rxLen.toNat ≤ start.rxMax ∧
    Memory.readBytes (lineIn true ['0', '\n']).mem rxbufBase 2 = some [0x30, 0x0A] := by decide

/-- The clauses of `DecodeLineRule`, for O20, O21 and O22: overlong, empty, short, not hex, the frame checks, good. -/
theorem witness_DecodeFollowsItsRule : broken.fault = true ∧ start.fault = false ∧
    start.rxMax < ({ start with rxLen := 65 } : State).rxLen.toNat ∧
    Memory.readBytes (lineIn true ['\r']).mem rxbufBase 1 = some [0x0D] ∧ (stripEol [0x0D]).length = 0 ∧
    (stripEol (asc (d23.take 10))).length = 10 ∧ (stripEol (asc d23)).length = 11 ∧ parse4 (asc d23) 7 = some 2 ∧
    parse4 (asc (d23.set 7 'G')) 7 = none ∧ frameOk (asc d1) = true ∧ frameOk (asc d23) = false ∧ (lineIn true d1).lrcen = true := by
  decide

/-- The boundaries of SHORTV (T-5, T-6). -/
theorem witness_DecodeTempFollowsItsRule :
    nextAnd (exec .decodeTemp (lineIn true [':', '0', '2', '0', '3', '0', '2', '0', '0', '0', '9', 'F', '0'])) (fun t => t.shortv) = true ∧
    nextAnd (exec .decodeTemp (lineIn true [':', '0', '2', '0', '3', '0', '2', '0', '0', '0', 'A', 'E', 'F'])) (fun t => !t.shortv) = true := by
  decide

/-- The boundary of Undefined (PS-4). -/
theorem witness_DecodePstateFollowsItsRule :
    nextAnd (exec .decodePstate { lineIn true [':', '0', '2', '0', '3', '0', '2', '0', '0', '0', '3', 'F', '6'] with pstate := .run })
      (fun t => decide (t.pstate = .undefined)) = true := by decide

/-- The clauses of `LrcCheckRule`: lengths 2 and 3, each frame check, a good line. -/
theorem witness_LrcCheckFollowsItsRule : (stripEol (asc [':', '0'])).length = 2 ∧ (stripEol (asc [':', '0', '0'])).length = 3 ∧
    frameOk (stripEol (asc [':', '0', '0'])) = true ∧ (asc ['0', '2', '0'])[0]? ≠ some 0x3A ∧
    ((asc [':', '0', '0', '0']).length - 1) % 2 ≠ 0 ∧ hexVal 0x47 = none ∧ pairSum (asc [':', '0', '1']) % 256 ≠ 0 ∧
    (lineIn false [':', '0', '0']).fault = false ∧ (lineIn false [':', '0', '0']).rxLen.toNat ≤ start.rxMax ∧
    Memory.readBytes (lineIn false [':', '0', '0']).mem rxbufBase 3 = some (asc [':', '0', '0']) ∧
    nextAnd (exec .lrcCheck (lineIn false [':', '0', '0'])) (fun t => decide (t.err = .ok)) = true := by decide

theorem witness_LrcenMakesDecodingStrict : (lineIn true d1).fault = false ∧
    nextAnd (exec .decode (lineIn true d1)) (fun t => decide (t.err = .ok)) = true ∧
    nextAnd (exec .decode (lineIn false d23)) (fun t => decide (t.err = .ok) && !t.lrcok) = true := by decide

/-- Two states that agree on the line and differ elsewhere. -/
theorem witness_DecodeReadsOnlyTheLine : readsLine .decodeTemp = true ∧
    (∀ k, k < 13 → Memory.read (Memory.write (lineIn true d1).mem 0x10D 0xFF) (rxbufBase + k) =
      Memory.read (lineIn true d1).mem (rxbufBase + k)) ∧
    Memory.write (lineIn true d1).mem 0x10D 0xFF ≠ (lineIn true d1).mem ∧ (lineIn true d1).rxLen.toNat = 13 ∧
    nextAnd (exec .decodeTemp (lineIn true d1)) (fun t => decide (t.err = .ok) && t.ev && t.dv) = true ∧
    faults (exec .decode { start with rxLen := 1 }) .unwrittenRxByte = true := by decide

theorem witness_NeverWrittenByteStopsDecoding : readsLine .lrcCheck = true ∧ start.fault = false ∧
    ({ lineIn true d1 with rxLen := 64 } : State).rxLen.toNat ≤ start.rxMax ∧
    Memory.read (lineIn true d1).mem (rxbufBase + 63) = none := by decide

theorem witness_EchoedWriteRoundTrip : ready.rxMaxValid ∧ ready.channelValid ∧ ready.fault = false ∧ ready.lock = true ∧
    ready.slave.toNat ≤ 0xFF ∧ ready.addr.toNat ≤ 0xFFFF ∧ ready.value.toNat ≤ 0xFFFF ∧
    0xFFFF = ready.addr.toNat + (if true then 0x0400 * (ready.chan.toNat - 1) else 0) := by
  unfold State.rxMaxValid State.channelValid; decide

/-- Symbol 12 on channel 1, and symbol 0, which needs no channel, at the ends of the table. -/
theorem witness_EchoedSymbolWriteRoundTrip : ready.rxMaxValid ∧ ready.channelValid ∧ (12 : BitVec 4).toNat ≤ 12 ∧
    ready.fault = false ∧ ready.lock = true ∧ ready.slave.toNat ≤ 0xFF ∧ ready.value.toNat ≤ 0xFFFF ∧
    0x0165 = mapAddr 12 ready.spsel ready.chan.toNat ∧ mapScoped 0 = false ∧ start.channelValid := by
  unfold State.rxMaxValid State.channelValid; decide

theorem witness_WireFramesValidateByChecksum : start.rxMaxValid ∧ start.fault = false ∧
    lrc (frameBytes 0x02 0x03 0x0130 0x0001) = 0xC9 := by
  unfold State.rxMaxValid; decide

theorem witness_NopFollowsItsRule : (opField 0x00000010).toNat = 0 ∧ (0x00000010 : Word) ≠ 0x00000000 ∧ broken.fault = true ∧
    start.fault = false := by decide

theorem witness_SoftResetFollowsItsRule : (opField 0x0000001F).toNat = 0xF ∧ (0x0000001F : Word) ≠ 0x0000000F ∧
    (waiting (.write32 0x000 0x0000001F) broken).pending = .write32 0x000 0x0000001F :: [] := by decide

theorem witness_ResetLeavesTheTableOfValues : (waiting .resetInput broken).pending = .resetInput :: [] ∧
    isReset .resetInput = true ∧ isReset (.write32 0x000 0x0000000F) = true ∧
    nextAnd (step (waiting .resetInput broken)) (fun t => decide (t = State.reset)) = true := by decide

theorem witness_UnboundChannelIsAContractViolation : start.fault = false ∧ start.lock = false ∧ 1 ≤ (1 : BitVec 4).toNat ∧
    (12 : BitVec 4).toNat ≤ 12 ∧ Instr.encRead true ∈ [Instr.encRead true, .encWrite true, .encReadSym 12, .encWriteSym 12] := by
  decide

theorem witness_FaultedMachineRefusesCommands : broken.fault = true ∧ isCommand .nop = true ∧
    (0x00000000 : Word) ≠ 0x0000000F ∧
    (waiting (.write32 0x000 0x00000000) broken).pending = .write32 0x000 0x00000000 :: [] := by decide

theorem witness_FaultIsSticky :
    nextAnd (step (waiting (.write32 0x000 0x00000000) broken)) (fun t => t.fault) = true ∧
    nextAnd (step (waiting (.write32 0x000 0x00000013) start)) (fun t => t.fault && decide (t.err = .contract)) = true ∧
    isReset (.write32 0x000 0x00000013) = false := by decide

theorem witness_ErrorsChangeNothingElse :
    nextAnd (exec (.encWrite false) { start with slave := 0x100 }) (fun t => decide (t.err ≠ .ok) && decide (t.err ≠ .contract)) = true ∧
    nextAnd (exec .decode start) (fun t => decide (t.err = .empty)) = true ∧
    nextAnd (exec .decode broken) (fun t => decide (t.err = .faulted)) = true := by decide

theorem witness_EncodeCommandsFrame : isEncode (.encWriteSym 12) = true ∧
    nextAnd (exec (.encWrite false) ready) (fun t => decide (t.err = .ok)) = true ∧
    nextAnd (exec (.encWrite true) start) (fun t => decide (t.err ≠ .ok)) = true := by decide

theorem witness_LineCommandsFrame :
    nextAnd (exec .decode (lineIn true d1)) (fun t => decide (t.err = .ok)) = true ∧
    nextAnd (exec .decodePstate (lineIn true d1)) (fun t => decide (t.err = .ok)) = true ∧
    nextAnd (exec .decodeTemp (lineIn true d1)) (fun t => decide (t.err = .ok)) = true ∧
    nextAnd (exec .decodeTemp start) (fun t => decide (t.err ≠ .ok)) = true ∧
    nextAnd (exec .lrcCheck (lineIn true d1)) (fun t => decide (t.err = .ok)) = true := by decide

theorem witness_ControlAndMapCommandsFrame : nextAnd (exec .nop start) (fun t => decide (t.err = .ok)) = true ∧
    nextAnd (exec .bindChan { start with chan := 1, chcount := 1 }) (fun t => t.lock) = true ∧
    nextAnd (exec (.resolve 12) (bound 1 1)) (fun t => decide (t.err = .ok)) = true := by decide

/-- The last byte of RXBUF with RXMAX = 300 lies beyond 0x1FF, and 27 bytes are the least. -/
theorem witness_OnlyAdmittedAccessesComplete_rxMax :
    nextAnd (step (waiting (.write8 0x22B 1) (State.resetWith 300))) (fun _ => true) = true ∧
    nextAnd (step (waiting (.write8 0x22C 1) (State.resetWith 300))) (fun _ => true) = false ∧
    nextAnd (step (waiting (.read .w32 0x11C) (State.resetWith 27))) (fun _ => true) = true ∧
    nextAnd (step (waiting (.read .w32 0x118) (State.resetWith 27))) (fun _ => true) = false := by decide

theorem witness_HostReadsChangeNothing :
    nextAnd (step (waiting (.read .w32 0x04C) start)) (fun t => decide (t.readData = 3)) = true := by decide

theorem witness_OnlyAdmittedAccessesComplete :
    nextAnd (step (waiting (.read .w32 0x1FC) start)) (fun _ => true) = true ∧
    nextAnd (step (waiting (.read .w8 0x060) start)) (fun _ => true) = true ∧
    nextAnd (step (waiting (.write8 0x1FF 1) start)) (fun _ => true) = true ∧
    nextAnd (step (waiting (.read .w8 0x05F) start)) (fun _ => true) = false ∧
    nextAnd (step (waiting (.read .w8 0x200) start)) (fun _ => true) = false ∧
    nextAnd (step (waiting (.write32 0x100 1) start)) (fun _ => true) = false := by decide

theorem witness_ReservedOffsetsReadZero : bufferAt start.rxMax 0x054 = none ∧ 0x054 % 4 = 0 ∧
    bufferAt start.rxMax 0x068 = none ∧ bufferAt start.rxMax 0x1FF = none ∧
    bufferAt start.rxMax 0x091 = none ∧ bufferAt start.rxMax 0x07F = none ∧ start.pending = [] := by decide

theorem witness_WordRegistersReadTheirValues : start.pending = [] ∧ start.pstate = .undefined ∧
    ({ start with pstate := .stop } : State).pstate = .stop ∧ ({ start with pstate := .run } : State).pstate = .run ∧
    ({ start with pstate := .pause } : State).pstate = .pause := by decide

theorem witness_HostWritesStoreTheirValues : start.pending = [] ∧ (bound 1 1).pending = [] ∧ (bound 1 1).lock = true := by decide

theorem witness_BufferBytesAreStoredAndRead : start.pending = [] ∧ 63 < start.rxMax ∧
    nextAnd (exec (.encWrite false) start) (fun t =>
      decide (t.txLen ≠ 0) && decide (Memory.read t.mem (0x080 + 16) = some 0x0A) && decide (t.pending = [])) = true ∧
    nextAnd (exec .decodeTemp (lineIn true d1)) (fun t =>
      decide (2 < t.decLen.toNat) && decide (Memory.read t.mem (0x060 + 2) = some 0x32)) = true := by decide

theorem witness_LineEqualsItsTransactions : (List.replicate 64 (0x30 : Byte)).length ≤ start.rxMax := by decide

/-- The empty state after reset and a step from it. -/
theorem witness_EveryStepKeepsTheInvariant : State.reset.Inv ∧ step State.reset = .next State.reset :=
  ⟨by constructor <;> simp [State.reset, State.resetWith, State.rxMaxValid, Config.rxMaxLeast, Config.rxMaxDefault,
    Memory.wf, Memory.sorted, Memory.inBuffers], rfl⟩

theorem witness_CanonicalMemoriesAreEqualData : Memory.wf (Memory.write (Memory.write [] 0x101 1) 0x100 2) ∧
    Memory.wf [(0x100, 2), (0x101, 1)] ∧
    ∀ x, Memory.read (Memory.write (Memory.write [] 0x101 1) 0x100 2) x = Memory.read [(0x100, 2), (0x101, 1)] x :=
  ⟨by decide, by decide, fun _ => rfl⟩

theorem witness_StepConsumesOneInput :
    nextAnd (step { start with pending := [.write32 0x000 0, .resetInput] }) (fun t => decide (t.pending = [.resetInput])) = true := by
  decide

theorem witness_OnlyEncodeCommandsTouchTheFrame :
    nextAnd (step (waiting (.write32 0x000 0x00000006) start)) (fun _ => true) = true ∧
    isReset (.write32 0x000 0x00000006) = false ∧ fetch (.write32 0x000 0x00000006) = .instr .bindChan ∧
    isEncode .bindChan = false := by decide

theorem witness_CommandsKeepOperandsAndLine : isCommand .decodeTemp = true ∧ Instr.decodeTemp ≠ .softReset ∧
    nextAnd (exec .decodeTemp (lineIn true d1)) (fun t => decide (t.rxLen = 13)) = true := by decide

theorem witness_ResetMeetsTheInvariant : Config.rxMaxLeast ≤ 27 ∧ Config.rxMaxLeast ≤ Config.rxMaxDefault := by decide

theorem witness_RxMaxIsAParameter :
    nextAnd (step (waiting .resetInput (State.resetWith 27))) (fun t => decide (t.rxMax = 27)) = true := by decide

/-- RXMAX = 27: a line of 27 characters fits, one of 28 does not. -/
theorem witness_LinesUpToRxMaxAreHeld : (List.replicate 27 (0x30 : Byte)).length ≤ (State.resetWith 27).rxMax ∧
    (State.resetWith 27).rxMax < (List.replicate 28 (0x30 : Byte)).length ∧ (State.resetWith 27).fault = false ∧
    nextAnd (step (waiting (.line (List.replicate 28 0x30)) (State.resetWith 27))) (fun t => decide (t.rxLen = 28)) = true := by
  decide

/-- 64 written bytes are readable. -/
theorem witness_EveryInstructionCompletes :
    ({ start with rxLen := 64, mem := Memory.writeBytes [] rxbufBase (List.replicate 64 0x30) } : State).rxReadable := by
  intro _ i hi
  have h : i < (List.replicate 64 (0x30 : Byte)).length := hi
  simp only [Memory.read_writeBytes_inside h, Option.isSome_some]

end Sys2Proof.Tests
end

section
/-! PROOFS of the statements of 00_scope.md: the step (O5), completion (O53), the parameter RXMAX (O54). -/

namespace Sys2Proof.Machine

/-! ## The step runs what the first pending input decodes to -/

/-- R61: a code placed on the bus, as a write to CMD or as a line, is fetched as the instruction it decodes to. -/
theorem fetch_codeOp {c : Code} {i : Instr} (h : decode c = some i) : fetch (codeOp c) = .instr i := by
  cases c with
  | command w => exact fetch_command h
  | line text => exact fetch_frame h

theorem step_withFetchWord {nbits w : Nat} {i : Instr} (s : State) (h : decodeTableWord nbits w = some i) :
    step (s.withFetchWord nbits w) = exec i s :=
  step_instr (s := s.withFetchWord nbits w) rfl (fetch_codeOp h)

/-- Settles O5, from the lemmas on what a step does and on what each input is fetched as. -/
theorem stepRunsDecodedInput : Obligations.StepRunsDecodedInput :=
  ⟨fun _ _ _ _ hp hd => step_instr hp (fetch_command hd),
   fun _ _ _ _ hp hd => step_instr hp (fetch_frame hd),
   fun _ hp => step_idle hp,
   fun s _ _ _ hd => step_withFetchWord s hd⟩

/-! ## Every instruction completes -/

/-- A command that completes while FAULT = 0 completes: while FAULT = 1 it reports E_FAULTED. -/
theorem whenNotFaulted_completes {s : State} {run : Result} (h : s.fault = false → ∃ t, run = .next t) :
    ∃ t, whenNotFaulted s run = .next t := by
  rcases whenNotFaulted_cases (s := s) (run := run) rfl with ⟨_, hr⟩ | ⟨hf, hr⟩
  · exact ⟨_, hr⟩
  · rw [← hr]
    exact h hf

theorem encodeRaw_completes (fc : Byte) (ch : Bool) (s : State) : ∃ t, encodeRaw fc ch s = .next t := by
  rcases encodeRaw_cases (fc := fc) (ch := ch) (s := s) rfl with
    ⟨_, hr⟩ | ⟨_, e, _, hr⟩ | ⟨_, _, _, _, _, _, hr⟩ <;> exact ⟨_, hr⟩

/-- R53, R73, R74, R91: a symbolic command refuses a symbol that the table lacks, and each of its checks ends in a report. -/
theorem exec_symbolic_completes {i : Instr} {sym : BitVec 4}
    (hi : i = .encReadSym sym ∨ i = .encWriteSym sym ∨ i = .resolve sym) (s : State) : ∃ t, exec i s = .next t := by
  rcases hi with rfl | rfl | rfl
  all_goals
    simp only [exec, execEncReadSym, execEncWriteSym, execResolve]
    split
    · exact ⟨_, rfl⟩
    · refine whenNotFaulted_completes fun _ => ?_
      repeat' split
      all_goals exact ⟨_, rfl⟩

theorem execBindChan_completes (s : State) : ∃ t, execBindChan s = .next t := by
  refine whenNotFaulted_completes fun _ => ?_
  repeat' split
  all_goals exact ⟨_, rfl⟩

/-- R35: a readable line has no never-written byte below RXLEN, so reading it does not stop. -/
theorem rxLine_ne_unwritten {s : State} (h : s.rxReadable) : rxLine s ≠ .unwritten := by
  unfold rxLine
  split
  · simp
  · obtain ⟨L, hL⟩ := Option.isSome_iff_exists.mp (Memory.readBytes_isSome.mpr (h (by omega)))
    simp [hL]

theorem decodeThen_completes (post : Nat → State → State) {s : State} (h : s.fault = false → s.rxReadable) :
    ∃ t, decodeThen post s = .next t := by
  rcases decodeThen_cases (post := post) (s := s) rfl with
    ⟨_, hr⟩ | ⟨_, e, _, hr⟩ | ⟨hf, hu, _⟩ | ⟨_, L, p, _, _, hr⟩
  · exact ⟨_, hr⟩
  · exact ⟨_, hr⟩
  · exact absurd hu (rxLine_ne_unwritten (h hf))
  · exact ⟨_, hr⟩

theorem execLrcCheck_completes {s : State} (h : s.fault = false → s.rxReadable) : ∃ t, execLrcCheck s = .next t := by
  refine whenNotFaulted_completes fun hf => ?_
  split
  · exact ⟨_, rfl⟩
  · rename_i hu
    exact absurd hu (rxLine_ne_unwritten (h hf))
  · split <;> exact ⟨_, rfl⟩

/-- The 17 characters of a wire frame stand inside the register space, whatever RXMAX is. -/
theorem loadLine_frameText_completes (slave fc : Byte) (a d : Half) (e : Byte) (s : State) :
    ∃ t, loadLine (frameText slave fc a d e) s = .next t :=
  loadLine_completes s (by rw [frameText_length]; decide)

/-- Settles O53, by cases on the instruction: only a command that reads the line needs the premise. -/
theorem everyInstructionCompletes : Obligations.EveryInstructionCompletes := by
  intro i s h
  cases i with
  | nop => exact whenNotFaulted_completes fun _ => ⟨_, rfl⟩
  | encRead ch => exact encodeRaw_completes 0x03 ch s
  | encWrite ch => exact encodeRaw_completes 0x06 ch s
  | encReadSym sym => exact exec_symbolic_completes (.inl rfl) s
  | encWriteSym sym => exact exec_symbolic_completes (.inr (.inl rfl)) s
  | resolve sym => exact exec_symbolic_completes (.inr (.inr rfl)) s
  | bindChan => exact execBindChan_completes s
  | decode => exact decodeThen_completes (fun _ t => t) (h rfl)
  | decodeTemp => exact decodeThen_completes State.storeTemp (h rfl)
  | decodePstate => exact decodeThen_completes State.storePstate (h rfl)
  | lrcCheck => exact execLrcCheck_completes (h rfl)
  | softReset => exact ⟨_, rfl⟩
  | fc03ReadHolding slave addr count lrc => exact loadLine_frameText_completes slave 0x03 addr count lrc s
  | fc06WriteSingle slave addr value lrc => exact loadLine_frameText_completes slave 0x06 addr value lrc s

/-! ## No step changes RXMAX -/

@[simp] theorem writeReg_rxMax (s : State) (r : Reg) (v : Word) : (s.writeReg r v).rxMax = s.rxMax := by
  unfold State.writeReg
  repeat' split
  all_goals rfl

@[simp] theorem failed_rxMax (i : Instr) (e : ErrCode) (s : State) : (failed i e s).rxMax = s.rxMax := by
  unfold failed
  repeat' split
  all_goals rfl

/-- A run in two parts that completes has completed its first part. -/
theorem andThen_next {r : Result} {k : State → Result} {t : State} (h : r.andThen k = .next t) :
    ∃ u, r = .next u ∧ k u = .next t := by
  cases r with
  | next u => exact ⟨u, rfl, h⟩
  | fault f => cases h
  | refused q => cases h

theorem busRead_rxMax {w : Width} {off : Nat} {s t : State} (h : busRead w off s = .next t) : t.rxMax = s.rxMax := by
  rw [busRead_next h]

theorem busWrite8_rxMax {off : Nat} {v : Byte} {s t : State} (h : busWrite8 off v s = .next t) :
    t.rxMax = s.rxMax := by
  rcases busWrite8_next h with rfl | ⟨_, _, _, rfl⟩ <;> rfl

theorem busWrite32_rxMax {off : Nat} {v : Word} {s t : State} (h : busWrite32 off v s = .next t) :
    t.rxMax = s.rxMax := by
  rcases busWrite32_next h with rfl | ⟨r, _, rfl⟩
  · rfl
  · exact writeReg_rxMax s r v

theorem storeRx_rxMax {text : List Byte} {i : Nat} {s t : State} (h : storeRx i text s = .next t) :
    t.rxMax = s.rxMax := by
  induction text generalizing i s with
  | nil => cases h; rfl
  | cons c rest ih =>
    obtain ⟨u, hu, ht⟩ := andThen_next h
    exact (ih ht).trans (busWrite8_rxMax hu)

theorem loadLine_rxMax {text : List Byte} {s t : State} (h : loadLine text s = .next t) : t.rxMax = s.rxMax := by
  obtain ⟨u, hu, ht⟩ := andThen_next h
  exact (busWrite32_rxMax ht).trans (storeRx_rxMax hu)

theorem hostAccess_rxMax {op : HostOp} {s t : State} (h : hostAccess op s = .next t) : t.rxMax = s.rxMax := by
  cases op with
  | read w off => exact busRead_rxMax h
  | write8 off v => exact busWrite8_rxMax h
  | write16 off v => cases h
  | write32 off v => exact busWrite32_rxMax h
  | line text => exact loadLine_rxMax h
  | resetInput => cases h; rfl

/-- The effect of a successful command, whichever it is, leaves RXMAX alone. -/
theorem Succeeds.rxMax_eq {i : Instr} {s t : State} (h : Succeeds i s t) : t.rxMax = s.rxMax := by
  cases i with
  | nop => cases h; rfl
  | encRead ch | encWrite ch => obtain ⟨_, _, rfl⟩ := h; rfl
  | encReadSym sym | encWriteSym sym => obtain ⟨_, _, _, rfl⟩ := h; rfl
  | resolve sym => obtain ⟨_, _, _, rfl⟩ := h; rfl
  | bindChan => obtain ⟨_, _, _, rfl⟩ := h; rfl
  | decode | decodeTemp | decodePstate => obtain ⟨_, _, _, _, rfl⟩ := h; rfl
  | lrcCheck => obtain ⟨_, _, _, rfl⟩ := h; rfl
  | softReset => exact h.elim
  | fc03ReadHolding _ _ _ _ | fc06WriteSingle _ _ _ _ => exact h.elim

theorem exec_command_rxMax {i : Instr} {s t : State} (hc : isCommand i = true) (hr : i ≠ .softReset)
    (h : exec i s = .next t) : t.rxMax = s.rxMax := by
  rcases exec_command_cases hc hr h with ⟨_, rfl⟩ | ⟨_, e, _, _, _, rfl⟩ | ⟨_, hs⟩
  · rfl
  · exact failed_rxMax i e s
  · exact hs.rxMax_eq

theorem exec_rxMax {i : Instr} {s t : State} (h : exec i s = .next t) : t.rxMax = s.rxMax := by
  cases i with
  | softReset => cases h; rfl
  | fc03ReadHolding _ _ _ _ | fc06WriteSingle _ _ _ _ => exact loadLine_rxMax h
  | _ => exact exec_command_rxMax rfl (by simp) h

/-- Settles O54, by the four things a step can do. -/
theorem rxMaxIsAParameter : Obligations.RxMaxIsAParameter := by
  intro s t h
  rcases step_cases h with ⟨_, hr⟩ | ⟨_, _, _, _, _, hr⟩ | ⟨_, _, _, _, hr⟩ | ⟨_, _, _, _, hr⟩
  · cases hr; rfl
  · exact (exec_rxMax hr.symm :)
  · rw [illegalWord_next hr.symm]; rfl
  · exact (hostAccess_rxMax hr.symm :)

end Sys2Proof.Machine
end

section
/-! PROOFS of the statements of 10_state.md: the lock (O18), strict decoding (O24), never-written bytes (O26), wire frames
and received lines (O29, O55), what the host reads and stores (O43, O45), canonical memories (O49), and what commands and
steps leave alone (O51, O52). -/

namespace Sys2Proof.Machine

/-! ## What a command leaves alone -/

theorem decAux_length_le (f k : Nat) : (decAux f k).length ≤ f := by
  induction f generalizing k with
  | zero => exact Nat.le_refl 0
  | succ f ih =>
    unfold decAux
    split
    · simp
    · simpa using ih (k / 10)

/-- The text of any payload ends well below TXBUF. -/
theorem tempText_length_le (p : Nat) : (tempText p).length ≤ 21 := by
  have hi := decAux_length_le 10 (p / 10)
  have lo := decAux_length_le 10 (p % 10)
  simp only [tempText, dec, List.length_append, List.length_singleton]
  omega

/-- What the command i, other than SOFT_RESET, leaves alone between the states s and t, whether it is refused, fails or
succeeds. -/
structure CommandFrame (i : Instr) (s t : State) : Prop where
  /-- The operands, CTRL, RXLEN and the host's side (R18, R34). -/
  operands : t = { t with
    slave := s.slave, addr := s.addr, value := s.value, chan := s.chan, chcount := s.chcount, lrcen := s.lrcen
    spsel := s.spsel, rxLen := s.rxLen, pending := s.pending, readData := s.readData, freeCount := s.freeCount }
  /-- LOCK is not cleared (R92). -/
  lock : s.lock = true → t.lock = true
  /-- Only an ENC_* command writes TXLEN and TX_LRC (R114). -/
  tx : isEncode i = false → t.txLen = s.txLen ∧ t.txLrc = s.txLrc
  /-- RXBUF is never stored to, TXBUF by ENC_* commands only (R33, R34). -/
  read : ∀ x, txbufBase ≤ x → (isEncode i = true → rxbufBase ≤ x) → Memory.read t.mem x = Memory.read s.mem x

theorem setErr_commandFrame (i : Instr) (e : ErrCode) (s : State) : CommandFrame i s (s.setErr e) :=
  ⟨rfl, id, fun _ => ⟨rfl, rfl⟩, fun _ _ _ => rfl⟩

theorem failed_commandFrame (i : Instr) (e : ErrCode) (s : State) : CommandFrame i s (failed i e s) := by
  unfold failed
  split
  · rename_i henc
    exact ⟨rfl, id, fun hn => by simp [hn] at henc, fun _ _ _ => rfl⟩
  · split <;> exact ⟨rfl, id, fun _ => ⟨rfl, rfl⟩, fun _ _ _ => rfl⟩

/-- A text of 17 characters stored in TXBUF stays below RXBUF. -/
theorem storeTx_commandFrame {i : Instr} (hi : isEncode i = true) (s : State) {text : List Byte}
    (hlen : text.length = 17) (len sum : Word) : CommandFrame i s
      { s with mem := Memory.writeBytes s.mem txbufBase text, txLen := len, txLrc := sum, err := .ok } where
  operands := rfl
  lock := id
  tx hn := by simp [hn] at hi
  read x _ hx := by
    have apart : txbufBase + 17 ≤ rxbufBase := by decide
    have := hx hi
    exact Memory.read_writeBytes_outside (.inr (by omega))

theorem emit_commandFrame {i : Instr} (hi : isEncode i = true) (fc slave : Byte) (a d : Half) (s : State) :
    CommandFrame i s (s.emit fc slave a d) :=
  storeTx_commandFrame hi s (requestText_length fc slave a d) _ _

theorem Succeeds.commandFrame {i : Instr} {s t : State} (h : Succeeds i s t) : CommandFrame i s t := by
  cases i with
  | nop => cases h; exact setErr_commandFrame _ _ s
  | encRead _ | encWrite _ => obtain ⟨_, _, rfl⟩ := h; exact emit_commandFrame rfl _ _ _ _ s
  | encReadSym _ | encWriteSym _ => obtain ⟨_, _, _, rfl⟩ := h; exact emit_commandFrame rfl _ _ _ _ s
  | resolve _ => obtain ⟨_, _, _, rfl⟩ := h; exact ⟨rfl, id, fun _ => ⟨rfl, rfl⟩, fun _ _ _ => rfl⟩
  | bindChan => obtain ⟨_, _, _, rfl⟩ := h; exact ⟨rfl, fun _ => rfl, fun _ => ⟨rfl, rfl⟩, fun _ _ _ => rfl⟩
  | decode | decodePstate =>
    obtain ⟨_, _, _, _, rfl⟩ := h; exact ⟨rfl, id, fun _ => ⟨rfl, rfl⟩, fun _ _ _ => rfl⟩
  | decodeTemp =>
    obtain ⟨L, p, _, _, rfl⟩ := h
    refine ⟨rfl, id, fun _ => ⟨rfl, rfl⟩, fun x hx _ => ?_⟩
    have apart : decstrBase + 21 ≤ txbufBase := by decide
    have := tempText_length_le p
    exact Memory.read_writeBytes_outside (.inr (by omega))
  | lrcCheck => obtain ⟨_, _, _, rfl⟩ := h; exact ⟨rfl, id, fun _ => ⟨rfl, rfl⟩, fun _ _ _ => rfl⟩
  | softReset => exact h.elim
  | fc03ReadHolding _ _ _ _ | fc06WriteSingle _ _ _ _ => exact h.elim

theorem exec_commandFrame {i : Instr} {s t : State} (hc : isCommand i = true) (hr : i ≠ .softReset)
    (h : exec i s = .next t) : CommandFrame i s t := by
  rcases exec_command_cases hc hr h with ⟨_, rfl⟩ | ⟨_, e, _, _, _, rfl⟩ | ⟨_, hs⟩
  · exact setErr_commandFrame i _ s
  · exact failed_commandFrame i e s
  · exact hs.commandFrame

/-- Settles O52, from the frame of the commands. -/
theorem commandsKeepOperandsAndLine : Obligations.CommandsKeepOperandsAndLine := by
  intro i s t hc hr h
  obtain ⟨e, _, _, hread⟩ := exec_commandFrame hc hr h
  have apart : txbufBase ≤ rxbufBase := by decide
  rw [e]
  exact ⟨rfl, rfl, rfl, rfl, rfl, rfl, rfl, rfl, rfl, rfl, rfl,
    fun k => hread _ (by omega) fun _ => Nat.le_add_right _ _⟩

/-! ## What a host access leaves alone -/

/-- What a host access that neither resets nor writes a register leaves alone: everything but the host's side, RXLEN and
the bytes from RXBUF[0] on. -/
structure HostFrame (s t : State) : Prop where
  fields : t = { s with mem := t.mem, rxLen := t.rxLen, readData := t.readData, freeCount := t.freeCount }
  below_rxbuf : ∀ x, x < rxbufBase → Memory.read t.mem x = Memory.read s.mem x

theorem busWrite8_frame {off : Nat} {v : Byte} {s t : State} (h : busWrite8 off v s = .next t) :
    t = { s with mem := t.mem } ∧ ∀ x, x < rxbufBase → Memory.read t.mem x = Memory.read s.mem x := by
  rcases busWrite8_next h with rfl | ⟨i, _, rfl, rfl⟩
  · exact ⟨rfl, fun _ _ => rfl⟩
  · exact ⟨rfl, fun x hx => Memory.read_write_other v (by omega)⟩

theorem storeRx_frame {text : List Byte} {i : Nat} {s t : State} (h : storeRx i text s = .next t) :
    t = { s with mem := t.mem } ∧ ∀ x, x < rxbufBase → Memory.read t.mem x = Memory.read s.mem x := by
  induction text generalizing i s with
  | nil => cases h; exact ⟨rfl, fun _ _ => rfl⟩
  | cons c rest ih =>
    obtain ⟨u, hu, ht⟩ := andThen_next h
    obtain ⟨eu, hru⟩ := busWrite8_frame hu
    obtain ⟨et, hrt⟩ := ih ht
    rw [eu] at et
    exact ⟨et, fun x hx => (hrt x hx).trans (hru x hx)⟩

/-- A line that is loaded, long or short: RXLEN is its length, and only bytes from RXBUF[0] on change. -/
theorem loadLine_frame {text : List Byte} {s t : State} (h : loadLine text s = .next t) :
    t = { s with mem := t.mem, rxLen := BitVec.ofNat 32 text.length } ∧
      ∀ x, x < rxbufBase → Memory.read t.mem x = Memory.read s.mem x := by
  obtain ⟨u, hu, ht⟩ := andThen_next h
  obtain ⟨eu, hr⟩ := storeRx_frame hu
  rw [busWrite32_rxLen] at ht
  injection ht with ht
  subst ht
  refine ⟨?_, hr⟩
  conv => lhs; rw [eu]

theorem loadLine_hostFrame {text : List Byte} {s t : State} (h : loadLine text s = .next t) : HostFrame s t := by
  obtain ⟨e, hr⟩ := loadLine_frame h
  refine ⟨?_, hr⟩
  rw [e]

/-- A completed host access is the reset input, a write of a word register, or leaves alone what `HostFrame` says. -/
theorem hostAccess_cases {op : HostOp} {s t : State} (h : hostAccess op s = .next t) :
    op = .resetInput ∨ (∃ r v, t = s.writeReg r v) ∨ HostFrame s t := by
  cases op with
  | read w off =>
    have e := busRead_next h
    refine .inr (.inr ⟨?_, fun x _ => ?_⟩)
    · rw [e]
    · rw [e]
  | write8 off v =>
    obtain ⟨e, hr⟩ := busWrite8_frame h
    refine .inr (.inr ⟨?_, hr⟩)
    rw [e]
  | write16 off v => cases h
  | write32 off v =>
    rcases busWrite32_next h with rfl | ⟨r, _, rfl⟩
    · exact .inr (.inr ⟨rfl, fun _ _ => rfl⟩)
    · exact .inr (.inl ⟨r, v, rfl⟩)
  | line text => exact .inr (.inr (loadLine_hostFrame h))
  | resetInput => exact .inl rfl


/-! ## What a step without reset can do -/

/-- R51: the fields of a word determine it. -/
theorem word_eq_of_fields {w v : Word} (ho : opField w = opField v) (hs : symField w = symField v)
    (hc : chField w = chField v) (hr : rsvField w = rsvField v) : w = v := by
  have ho := congrArg BitVec.toNat ho
  have hs := congrArg BitVec.toNat hs
  have hr := congrArg BitVec.toNat hr
  simp only [opField, symField, rsvField, BitVec.extractLsb'_toNat, Nat.shiftRight_eq_div_pow] at ho hs hr
  simp only [chField, BitVec.getLsbD, Nat.testBit_eq_decide_div_mod_eq, decide_eq_decide] at hc
  apply BitVec.eq_of_toNat_eq
  omega

/-- R53, R99: one command word means SOFT_RESET. -/
theorem decodeCommand_softReset {w : Word} (h : decodeCommand w = some .softReset) : w = 0x0000000F := by
  unfold decodeCommand plainForm chForm symForm at h
  split at h
  · cases h
  rename_i hrsv
  repeat' split at h
  all_goals first | cases h; done | skip
  rename_i hop hfields
  obtain ⟨hsym, hch⟩ := hfields
  exact word_eq_of_fields (BitVec.eq_of_toNat_eq hop) hsym hch (Decidable.not_not.mp hrsv)

/-- R55, R57: what a line decodes to is a wire frame with the line's own text. -/
theorem decodeLine_some {text : List Byte} {i : Instr} (h : decodeLine text = some i) :
    (∃ slave a d e, i = .fc03ReadHolding slave a d e ∧ text = frameText slave 0x03 a d e) ∨
    (∃ slave a d e, i = .fc06WriteSingle slave a d e ∧ text = frameText slave 0x06 a d e) := by
  unfold decodeLine at h
  split at h
  · split at h
    · rename_i htext
      split at h
      · rename_i hf
        subst hf
        injection h with h
        exact .inl ⟨_, _, _, _, h.symm, htext⟩
      · split at h
        · rename_i hf
          subst hf
          injection h with h
          exact .inr ⟨_, _, _, _, h.symm, htext⟩
        · cases h
    · cases h
  · cases h

/-- Log 8: a received line is loaded, whether it decodes as a wire frame or not. -/
theorem step_line {s : State} {text : List Byte} {rest : List HostOp} (h : s.pending = .line text :: rest) :
    step s = loadLine text { s with pending := rest } := by
  cases hd : decode (.line text) with
  | none => exact step_access h (fetch_line hd)
  | some i =>
    rw [step_instr h (fetch_frame hd)]
    rcases decodeLine_some hd with ⟨_, _, _, _, rfl, ht⟩ | ⟨_, _, _, _, rfl, ht⟩ <;>
      exact congrArg (loadLine · { s with pending := rest }) ht.symm

/-- Only the word of SOFT_RESET is fetched as SOFT_RESET. -/
theorem isReset_of_fetch_softReset {op : HostOp} (h : fetch op = .instr .softReset) : isReset op = true := by
  unfold fetch at h
  split at h
  · split at h
    · rename_i hoff
      split at h
      · rename_i hd
        injection h with h
        subst h
        rw [decodeCommand_softReset hd, hoff]
        rfl
      · cases h
    · cases h
  · split at h
    · rename_i hd
      injection h with h
      subst h
      rcases decodeLine_some hd with ⟨_, _, _, _, hi, _⟩ | ⟨_, _, _, _, hi, _⟩ <;> cases hi
    · cases h
  all_goals cases h

/-- A wire frame, as an instruction, is a line loaded. -/
theorem exec_frame_hostFrame {i : Instr} {s t : State} (hi : isCommand i = false) (h : exec i s = .next t) :
    HostFrame s t := by
  cases i with
  | fc03ReadHolding _ _ _ _ | fc06WriteSingle _ _ _ _ => exact loadLine_hostFrame h
  | _ => cases hi

/-- What a step can do when its input `op` is no reset, `u` being the state that has lost the input: run a command, refuse
an illegal word, write a word register, or make another host access (a wire frame being a line loaded, log 6). -/
def StepEffect (op : HostOp) (u t : State) : Prop :=
  (∃ i, fetch op = .instr i ∧ CommandFrame i u t) ∨ (∃ e, t = u.setErr e) ∨ (∃ r v, t = u.writeReg r v) ∨ HostFrame u t

theorem step_effect {s t : State} {op : HostOp} {rest : List HostOp} (hp : s.pending = op :: rest)
    (hn : isReset op = false) (h : step s = .next t) : StepEffect op { s with pending := rest } t := by
  cases hf : fetch op with
  | instr i =>
    rw [step_instr hp hf] at h
    cases hc : isCommand i with
    | true =>
      have hr : i ≠ .softReset := by
        rintro rfl
        simp [isReset_of_fetch_softReset hf] at hn
      exact .inl ⟨i, hf, exec_commandFrame hc hr h⟩
    | false => exact .inr (.inr (.inr (exec_frame_hostFrame hc h)))
  | illegal =>
    rw [step_illegal hp hf] at h
    exact .inr (.inl ⟨_, illegalWord_next h⟩)
  | access =>
    rw [step_access hp hf] at h
    rcases hostAccess_cases h with rfl | ⟨r, v, e⟩ | hh
    · exact absurd hn (by decide)
    · exact .inr (.inr (.inl ⟨r, v, e⟩))
    · exact .inr (.inr (.inr hh))

/-- R41 (d): while LOCK = 1 no register write changes LOCK, CHAN or CHCOUNT. -/
theorem writeReg_locked {s : State} (r : Reg) (v : Word) (h : s.lock = true) :
    (s.writeReg r v).lock = true ∧ (s.writeReg r v).chan = s.chan ∧ (s.writeReg r v).chcount = s.chcount := by
  cases r <;> simp [State.writeReg, h]

/-- R41 (c): no register write changes TXLEN, TX_LRC or a buffer. -/
theorem writeReg_tx (s : State) (r : Reg) (v : Word) :
    (s.writeReg r v).txLen = s.txLen ∧ (s.writeReg r v).txLrc = s.txLrc ∧ (s.writeReg r v).mem = s.mem := by
  unfold State.writeReg
  repeat' split
  all_goals exact ⟨rfl, rfl, rfl⟩

/-- Settles O18, by the four effects of a step without reset. -/
theorem lockFreezesTheChannel : Obligations.LockFreezesTheChannel := by
  intro s t hl h hn
  cases hp : s.pending with
  | nil =>
    rw [step_idle hp] at h
    cases h
    exact ⟨hl, rfl, rfl⟩
  | cons op rest =>
    rcases step_effect hp (hn op (by rw [hp]; rfl)) h with ⟨i, _, frame⟩ | ⟨e, rfl⟩ | ⟨r, v, rfl⟩ | frame
    · rw [frame.operands]
      exact ⟨frame.lock hl, rfl, rfl⟩
    · exact ⟨hl, rfl, rfl⟩
    · exact writeReg_locked r v hl
    · rw [frame.fields]
      exact ⟨hl, rfl, rfl⟩

/-- Settles O51, by the four effects of a step without reset: a store of the host's never reaches TXBUF. -/
theorem onlyEncodeCommandsTouchTheFrame : Obligations.OnlyEncodeCommandsTouchTheFrame := by
  intro s t h hn henc
  cases hp : s.pending with
  | nil =>
    rw [step_idle hp] at h
    cases h
    exact ⟨rfl, rfl, fun _ _ => rfl⟩
  | cons op rest =>
    have hhead : s.pending.head? = some op := by rw [hp]; rfl
    rcases step_effect hp (hn op hhead) h with ⟨i, hf, frame⟩ | ⟨e, rfl⟩ | ⟨r, v, rfl⟩ | frame
    · have hi := henc op i hhead hf
      obtain ⟨hlen, hlrc⟩ := frame.tx hi
      exact ⟨hlen, hlrc, fun k _ => frame.read _ (Nat.le_add_right _ _) fun hc => by simp [hi] at hc⟩
    · exact ⟨rfl, rfl, fun _ _ => rfl⟩
    · obtain ⟨hlen, hlrc, hmem⟩ := writeReg_tx { s with pending := rest } r v
      exact ⟨hlen, hlrc, fun k _ => by rw [hmem]⟩
    · have apart : txbufBase + 17 ≤ rxbufBase := by decide
      rw [frame.fields]
      exact ⟨rfl, rfl, fun k hk => frame.below_rxbuf _ (by omega)⟩

/-! ## Decoding a received line -/

theorem frameOk_of_frameError_none {L : List Byte} (hl : 3 ≤ L.length) (h : frameError L = none) : frameOk L = true := by
  unfold frameError at h
  repeat' split at h
  all_goals first | cases h; done | skip
  rename_i hsof hodd hhex hsum
  have hcolon : L[0]? = some chColon := Decidable.not_not.mp hsof
  have heven : (L.length - 1) % 2 = 0 := Decidable.not_not.mp hodd
  have hall : L.tail.all isHex = true := eq_true_of_ne_false hhex
  have hzero : pairSum L % 256 = 0 := Decidable.not_not.mp hsum
  simp only [frameOk, hl, hcolon, heven, hall, hzero, decide_true, beq_self_eq_true, Bool.and_self]

/-- A decode command that answers a next state while FAULT = 0 reports one of the errors of R80, or decodes the line. -/
theorem decodeThen_next {post : Nat → State → State} {s t : State} (hf : s.fault = false)
    (h : decodeThen post s = .next t) :
    (∃ e, t = s.rxFail e ∧ (e = .overlong ∨ ∃ L, lineVerdict s.lrcen L = .bad e)) ∨
    (∃ L p, lineVerdict s.lrcen L = .good p ∧ t = post p (s.rxGood L p)) := by
  rw [decodeThen, whenNotFaulted_clear _ hf] at h
  split at h
  · injection h with h
    exact .inl ⟨_, h.symm, .inl rfl⟩
  · cases h
  · split at h
    · rename_i hv
      injection h with h
      exact .inl ⟨_, h.symm, .inr ⟨_, hv⟩⟩
    · rename_i hv
      injection h with h
      exact .inr ⟨_, _, hv, h.symm⟩

/-- R27, R80: what LRCEN asks of a decode command, whatever it does with the payload. -/
theorem decodeThen_lrcen {post : Nat → State → State} {s t : State}
    (hpost : ∀ p u, (post p u).err = u.err ∧ (post p u).lrcok = u.lrcok) (hf : s.fault = false)
    (h : decodeThen post s = .next t) :
    (s.lrcen = true → t.err = .ok → t.lrcok = true) ∧
    (s.lrcen = false → t.err = .ok ∨ t.err = .overlong ∨ t.err = .empty ∨ t.err = .short ∨ t.err = .nonHex) := by
  rcases decodeThen_next hf h with ⟨e, rfl, rfl | ⟨L, hv⟩⟩ | ⟨L, p, hv, rfl⟩
  · simp
  · refine ⟨fun _ hok => absurd hok (lineVerdict_bad_ne_ok hv), fun hb => ?_⟩
    have codes := lineVerdict_codes hv
    simp only [hb, Bool.false_eq_true, false_and, or_false] at codes
    exact .inr (.inr codes)
  · obtain ⟨herr, hlrc⟩ := hpost p (s.rxGood L p)
    rw [herr, hlrc]
    obtain ⟨hlen, _, hframe⟩ := lineVerdict_good hv
    exact ⟨fun hb _ => frameOk_of_frameError_none (by omega) (hframe hb), fun _ => .inl rfl⟩

/-- Settles O24: none of the three commands writes ERR or LRCOK after decode_line. -/
theorem lrcenMakesDecodingStrict : Obligations.LrcenMakesDecodingStrict := by
  rintro s t i (rfl | rfl | rfl) hf h
  · exact decodeThen_lrcen (fun _ _ => ⟨rfl, rfl⟩) hf h
  · exact decodeThen_lrcen (fun p u => ⟨u.storeTemp_err p, u.storeTemp_lrcok p⟩) hf h
  · exact decodeThen_lrcen (fun p u => ⟨u.storePstate_err p, u.storePstate_lrcok p⟩) hf h

theorem rxLine_unwritten {s : State} {k : Nat} (hlen : s.rxLen.toNat ≤ s.rxMax) (hk : k < s.rxLen.toNat)
    (h : Memory.read s.mem (rxbufBase + k) = none) : rxLine s = .unwritten := by
  have hnone : Memory.readBytes s.mem rxbufBase s.rxLen.toNat = none := by
    rw [← Option.not_isSome_iff_eq_none, Memory.readBytes_isSome]
    exact fun hall => by simpa [h] using hall k hk
  rw [rxLine, if_neg (by omega), hnone]

theorem decodeThen_unwritten (post : Nat → State → State) {s : State} (hf : s.fault = false)
    (h : rxLine s = .unwritten) : decodeThen post s = .fault .unwrittenRxByte := by
  rw [decodeThen, whenNotFaulted_clear _ hf, h]

/-- Settles O26: the four commands read the same line, and reading it stops. -/
theorem neverWrittenByteStopsDecoding : Obligations.NeverWrittenByteStopsDecoding := by
  intro i s k hi hf hlen hk hnone
  have hline := rxLine_unwritten hlen hk hnone
  cases i with
  | decode => exact decodeThen_unwritten (fun _ t => t) hf hline
  | decodeTemp => exact decodeThen_unwritten State.storeTemp hf hline
  | decodePstate => exact decodeThen_unwritten State.storePstate hf hline
  | lrcCheck =>
    show execLrcCheck s = _
    rw [execLrcCheck, whenNotFaulted_clear _ hf, hline]
  | _ => cases hi

/-! ## Wire frames and received lines -/

theorem loadLine_of_length_eq_17 {s : State} (h : s.rxMaxValid) {text : List Byte} (hlen : text.length = 17) :
    ∃ t, loadLine text s = .next t ∧ t = { s with mem := t.mem, rxLen := 17 } ∧
      Memory.readBytes t.mem rxbufBase 17 = some text ∧ Memory.sameOutside rxbufBase 17 s.mem t.mem := by
  have hfit : text.length ≤ s.rxMax := by
    rw [hlen]
    exact Nat.le_trans (by decide) h
  have hload := loadLine_next s hfit
  have hread := Memory.readBytes_writeBytes s.mem rxbufBase text
  rw [hlen] at hload hread
  exact ⟨_, hload, rfl, hread, fun x hx => Memory.read_writeBytes_outside (by rw [hlen]; exact hx)⟩

/-- Settles O29, both wire frames being lines that fit. -/
theorem wireFrameIsLoadedAsLine : Obligations.WireFrameIsLoadedAsLine :=
  fun _ slave a d e h => ⟨loadLine_of_length_eq_17 h (frameText_length slave 0x03 a d e),
    loadLine_of_length_eq_17 h (frameText_length slave 0x06 a d e)⟩

/-- R78: with RXLEN above RXMAX, DECODE reads nothing and reports E_OVERLONG. -/
theorem execDecode_overlong {s : State} (hf : s.fault = false) (h : s.rxMax < s.rxLen.toNat) :
    execDecode s = .next (s.rxFail .overlong) := by
  have hline : rxLine s = .overlong := if_pos h
  rw [execDecode, decodeThen, whenNotFaulted_clear _ hf, hline]

/-- Settles O55: RXLEN is the line's length either way, and decides what is read. -/
theorem linesUpToRxMaxAreHeld : Obligations.LinesUpToRxMaxAreHeld := by
  intro s text rest hp
  rw [step_line hp]
  refine ⟨fun hfit hlt => ?_, fun t hlong hlt hf h => ?_⟩
  · have hlen : (BitVec.ofNat 32 text.length).toNat = text.length := Nat.mod_eq_of_lt hlt
    have hread := Memory.readBytes_writeBytes s.mem rxbufBase text
    refine ⟨_, loadLine_next { s with pending := rest } hfit, hlen, hread, ?_⟩
    simp only [rxLine, hlen, hread]
    exact if_neg (by omega)
  · obtain ⟨e, _⟩ := loadLine_frame h
    have hlen : t.rxLen.toNat = text.length := by
      rw [e]
      exact Nat.mod_eq_of_lt hlt
    have hmax : t.rxMax = s.rxMax := (loadLine_rxMax h :)
    have hfault : t.fault = false := by
      rw [e]
      exact hf
    exact execDecode_overlong hfault (by omega)

/-! ## What the host reads and stores -/

/-- R38: a host read of a word register. -/
theorem step_read_regOffset (s : State) (r : Reg) :
    step { s with pending := .read .w32 (regOffset r) :: s.pending } = .next { s with readData := s.readReg r } := by
  rw [step_access rfl (fetch_read _ _)]
  simp only [hostAccess, busRead, target_regOffset]
  rfl

/-- A bit above all bits of a word adds its weight. -/
theorem toNat_or_flagBit {w : Word} {k : Nat} (hk : k < 32) (hw : w.toNat < 2 ^ k) (b : Bool) :
    (w ||| flagBit b k).toNat = w.toNat + 2 ^ k * b.toNat ∧ (w ||| flagBit b k).toNat < 2 ^ (k + 1) := by
  cases b with
  | false =>
    have hor : w ||| flagBit false k = w := BitVec.or_zero
    rw [hor, Bool.toNat_false, Nat.mul_zero, Nat.pow_succ]
    exact ⟨rfl, by omega⟩
  | true =>
    have hbit : (1#32 <<< k).toNat = 1 <<< k := by
      rw [BitVec.toNat_shiftLeft, show (1#32).toNat = 1 from rfl, Nat.one_shiftLeft]
      exact Nat.mod_eq_of_lt (Nat.pow_lt_pow_right (a := 2) (by decide) hk)
    have hor : (w ||| flagBit true k).toNat = w.toNat + 2 ^ k := by
      simp only [flagBit, if_true, BitVec.toNat_or, hbit]
      rw [Nat.or_comm, ← Nat.shiftLeft_add_eq_or_of_lt hw, Nat.one_shiftLeft, Nat.add_comm]
    rw [hor, Bool.toNat_true, Nat.mul_one, Nat.pow_succ]
    exact ⟨rfl, by omega⟩

/-- R26: STATUS is the sum of its fields, each bit with its weight. -/
theorem statusWord_toNat (s : State) :
    s.statusWord.toNat = s.err.code.toNat + 0x100 * s.fault.toNat + 0x200 * s.lock.toNat + 0x400 * s.lrcok.toNat +
      0x800 * s.ev.toNat + 0x1000 * s.dv.toNat + 0x2000 * s.shortv.toNat := by
  have hcode : (s.err.code.setWidth 32).toNat = s.err.code.toNat := BitVec.toNat_setWidth_of_le (by decide)
  have hlt : (s.err.code.setWidth 32).toNat < 2 ^ 8 := hcode ▸ s.err.code.isLt
  obtain ⟨e8, lt9⟩ := toNat_or_flagBit (k := 8) (by decide) hlt s.fault
  obtain ⟨e9, lt10⟩ := toNat_or_flagBit (k := 9) (by decide) lt9 s.lock
  obtain ⟨e10, lt11⟩ := toNat_or_flagBit (k := 10) (by decide) lt10 s.lrcok
  obtain ⟨e11, lt12⟩ := toNat_or_flagBit (k := 11) (by decide) lt11 s.ev
  obtain ⟨e12, lt13⟩ := toNat_or_flagBit (k := 12) (by decide) lt12 s.dv
  obtain ⟨e13, _⟩ := toNat_or_flagBit (k := 13) (by decide) lt13 s.shortv
  show _ = s.err.code.toNat + 2 ^ 8 * s.fault.toNat + 2 ^ 9 * s.lock.toNat + 2 ^ 10 * s.lrcok.toNat +
    2 ^ 11 * s.ev.toNat + 2 ^ 12 * s.dv.toNat + 2 ^ 13 * s.shortv.toNat
  rw [State.statusWord, e13, e12, e11, e10, e9, e8, hcode]

theorem ctrlWord_toNat (s : State) : s.ctrlWord.toNat = s.lrcen.toNat + 2 * s.spsel.toNat := by
  unfold State.ctrlWord
  cases s.lrcen <;> cases s.spsel <;> rfl

/-- The word registers whose value is a field of the state, and CMD, which reads 0. -/
def plainRegs : List Reg :=
  [.cmd, .slave, .addr, .value, .chan, .chcount, .resAddr, .resLen, .resScoped, .txLrc, .txLen, .rxLen, .rxEcho,
   .rxPayload, .rxData, .tempInt, .tempFrac, .decLen]

/-- Settles O43: one rule for the read of a register, and the layout of STATUS, CTRL and PSTATE. -/
theorem wordRegistersReadTheirValues : Obligations.WordRegistersReadTheirValues := by
  rintro s _ rfl
  refine ⟨?_, ⟨s.statusWord, s.err.code.toNat, step_read_regOffset s .status, ?_, statusWord_toNat s⟩,
    ⟨s.ctrlWord, step_read_regOffset s .ctrl, ctrlWord_toNat s⟩,
    ⟨s.pstate.code, step_read_regOffset s .pstate, ?_⟩⟩
  · show ∀ p ∈ plainRegs.map fun r => (regOffset r, s.readReg r), _
    exact List.forall_mem_map.mpr fun r _ => step_read_regOffset s r
  · cases s.err <;> decide
  · cases s.pstate <;> decide

/-- R40, R41: an 8-bit write to a byte of TXBUF or DECSTR is ignored. -/
theorem step_write8_ignored {s : State} {off i : Nat} {b : Buf} (v : Byte) (h : bufferAt s.rxMax off = some (b, i))
    (hb : b ≠ .rxbuf) : step { s with pending := .write8 off v :: s.pending } = .next s := by
  have ht : target s.rxMax .w8 off = some (.byte b i) := byteTarget_buffer h
  rw [step_access rfl (fetch_write8 _ _)]
  simp only [hostAccess, busWrite8, ht]

/-- R41: an 8-bit read of a buffer byte that has a value gives the host that byte. -/
theorem step_read_byte {s : State} {off i : Nat} {b : Buf} {v : Byte} (h : bufferAt s.rxMax off = some (b, i))
    (hv : s.hostByte b i = some v) :
    step { s with pending := .read .w8 off :: s.pending } = .next { s with readData := v.setWidth 32 } := by
  have ht : target s.rxMax .w8 off = some (.byte b i) := byteTarget_buffer h
  have hr : s.readByte b i = { s with readData := v.setWidth 32 } := by rw [State.readByte, hv]; rfl
  rw [step_access rfl (fetch_read _ _)]
  simp only [hostAccess, busRead, ht]
  exact congrArg Host.Outcome.next hr

/-- Settles O45, from one rule per host access to a buffer byte. -/
theorem bufferBytesAreStoredAndRead : Obligations.BufferBytesAreStoredAndRead := by
  rintro s v b i _ rfl
  refine ⟨fun hi => ?_, fun hi => step_write8_ignored v (bufferAt_txbuf hi) (by decide),
    fun hi => step_write8_ignored v (bufferAt_decstr hi) (by decide),
    fun hi hlen hread => step_read_byte (bufferAt_txbuf hi) ?_,
    fun hi hlt hread => step_read_byte (bufferAt_decstr hi) ?_⟩
  · have hstored := Memory.read_write_same s.mem (rxbufBase + i) v
    refine ⟨{ s with mem := Memory.write s.mem (rxbufBase + i) v }, ?_, rfl, hstored, fun x hx => ?_, ?_⟩
    · rw [step_access rfl (fetch_write8 _ _)]
      exact busWrite8_rxbuf v s hi
    · have hne : x ≠ 0x100 + i := by omega
      exact Memory.read_write_other v hne
    · exact step_read_byte (s := { s with mem := Memory.write s.mem (rxbufBase + i) v }) (bufferAt_rxbuf hi) hstored
  · rw [State.hostByte, if_neg hlen]
    exact hread
  · rw [State.hostByte, if_pos hlt]
    exact hread

/-! ## Canonical memories -/

theorem Memory.read_of_above {m : List Host.Cell} {a x : Nat} (h : Memory.above a m) (hx : x ≤ a) :
    Memory.read m x = none := by
  induction m with
  | nil => rfl
  | cons c rest ih =>
    obtain ⟨hc, hrest⟩ := Memory.above_cons.mp h
    rw [Memory.read, if_neg (by omega), ih hrest]

theorem Memory.read_head (c : Host.Cell) (m : List Host.Cell) : Memory.read (c :: m) c.1 = some c.2 := if_pos rfl

/-- The least offset at which a canonical memory reads as something is that of its first cell. -/
theorem Memory.head_le_of_read {c d : Host.Cell} {m m' : List Host.Cell} (hm' : Memory.wf (d :: m'))
    (h : ∀ x, Memory.read (c :: m) x = Memory.read (d :: m') x) : d.1 ≤ c.1 := by
  refine Nat.le_of_not_lt fun hlt => ?_
  have habove : Memory.above c.1 (d :: m') :=
    Memory.above_cons.mpr ⟨by omega, fun e he => Nat.lt_trans (by omega) ((Memory.wf_cons.mp hm').1 e he)⟩
  have := h c.1
  rw [Memory.read_head, Memory.read_of_above habove (Nat.le_refl _)] at this
  cases this

/-- Settles O49, by induction on both lists: equal reads give equal first cells, and then the rests read alike. -/
theorem canonicalMemoriesAreEqualData : Obligations.CanonicalMemoriesAreEqualData := by
  intro m
  induction m with
  | nil =>
    intro m' _ _ h
    cases m' with
    | nil => rfl
    | cons d rest' => cases (h d.1).trans (Memory.read_head d rest')
  | cons c rest ih =>
    intro m' hm hm' h
    cases m' with
    | nil => cases (h c.1).symm.trans (Memory.read_head c rest)
    | cons d rest' =>
      obtain ⟨hc, hrest⟩ := Memory.wf_cons.mp hm
      obtain ⟨hd, hrest'⟩ := Memory.wf_cons.mp hm'
      have hoff : c.1 = d.1 :=
        Nat.le_antisymm (Memory.head_le_of_read hm fun x => (h x).symm) (Memory.head_le_of_read hm' h)
      have hval : c.2 = d.2 := by
        have := h c.1
        rw [Memory.read_head, hoff, Memory.read_head] at this
        exact Option.some.inj this
      obtain rfl : c = d := Prod.ext hoff hval
      refine congrArg (c :: ·) (ih rest' hrest hrest' fun x => ?_)
      by_cases hx : c.1 = x
      · rw [Memory.read_of_above hc (by omega), Memory.read_of_above hd (by omega)]
      · simpa only [Memory.read, if_neg hx] using h x

end Sys2Proof.Machine
end

section
/-! PROOFS of the statements of 20_memory.md: which host accesses complete (O41), what reads and writes leave alone
(O40, O42), what a write of a word register stores (O44), and the order of the inputs (O50). -/

namespace Sys2Proof.Machine

/-! ## A step that takes a host access makes that access -/

theorem step_read (s : State) (w : Width) (off : Nat) (rest : List HostOp) :
    step { s with pending := .read w off :: rest } = busRead w off { s with pending := rest } :=
  step_access rfl (fetch_read w off)

theorem step_write8 (s : State) (off : Nat) (v : Byte) (rest : List HostOp) :
    step { s with pending := .write8 off v :: rest } = busWrite8 off v { s with pending := rest } :=
  step_access rfl (fetch_write8 off v)

/-- R25: a 32-bit write anywhere but to CMD is a plain access. -/
theorem step_write32 {off : Nat} (s : State) (v : Word) (rest : List HostOp) (h : off ≠ 0) :
    step { s with pending := .write32 off v :: rest } = busWrite32 off v { s with pending := rest } :=
  step_access rfl (fetch_write32 v h)

/-- Settles O40: a completed bus read changes only the host's side. -/
theorem hostReadsChangeNothing : Obligations.HostReadsChangeNothing := by
  intro s t w off rest hp h
  rw [step_access hp (fetch_read w off)] at h
  exact busRead_next h

/-! ## Which accesses complete -/

/-- R40, U12: an access that reaches the target `k` and answers `r` completes if there is such a target, and is a bus error
if there is none. -/
structure Answers (k : Option Target) (r : Result) : Prop where
  completes : k.isSome = true → ∃ t, r = .next t
  faults : k = none → r = .fault .busError

theorem Answers.completes_iff {k : Option Target} {r : Result} (h : Answers k r) :
    (∃ t, r = .next t) ↔ k.isSome = true := by
  refine ⟨fun ⟨t, ht⟩ => ?_, h.completes⟩
  cases k with
  | some _ => rfl
  | none => cases ht.symm.trans (h.faults rfl)

theorem Answers.busError {k : Option Target} {r : Result} (h : Answers k r) (hn : ¬∃ t, r = .next t) :
    r = .fault .busError :=
  h.faults (Option.not_isSome_iff_eq_none.mp fun hk => hn (h.completes hk))

theorem busRead_answers (w : Width) (off : Nat) (s : State) : Answers (target s.rxMax w off) (busRead w off s) := by
  unfold busRead
  cases target s.rxMax w off with
  | none => exact ⟨nofun, fun _ => rfl⟩
  | some k => cases k <;> exact ⟨fun _ => ⟨_, rfl⟩, nofun⟩

theorem busWrite32_answers (off : Nat) (v : Word) (s : State) :
    Answers (target s.rxMax .w32 off) (busWrite32 off v s) := by
  unfold busWrite32
  cases target s.rxMax .w32 off with
  | none => exact ⟨nofun, fun _ => rfl⟩
  | some k => cases k <;> exact ⟨fun _ => ⟨_, rfl⟩, nofun⟩

theorem busWrite8_answers (off : Nat) (v : Byte) (s : State) :
    Answers (target s.rxMax .w8 off) (busWrite8 off v s) := by
  unfold busWrite8
  cases target s.rxMax .w8 off with
  | none => exact ⟨nofun, fun _ => rfl⟩
  | some k =>
    cases k with
    | byte b i => cases b <;> exact ⟨fun _ => ⟨_, rfl⟩, nofun⟩
    | _ => exact ⟨fun _ => ⟨_, rfl⟩, nofun⟩

/-- R38, R40: a 32-bit access is admitted at a multiple of 4 outside the three buffers. -/
theorem target_w32_isSome (rxMax off : Nat) :
    (target rxMax .w32 off).isSome = true ↔
      off % 4 = 0 ∧ off ≤ 0x1FF ∧ ¬(0x060 ≤ off ∧ off < 0x068) ∧ ¬(0x080 ≤ off ∧ off < 0x091) ∧
        ¬(0x100 ≤ off ∧ off < 0x100 + rxMax) := by
  have h := wordTarget_isSome rxMax off
  rw [bufferAt_isSome, not_or, not_or] at h
  exact h

/-- R38, R40: an 8-bit access is admitted from DECSTR on, and at every byte of RXBUF: the other two buffers lie below
0x1FF. -/
theorem target_w8_isSome (rxMax off : Nat) :
    (target rxMax .w8 off).isSome = true ↔ (0x060 ≤ off ∧ off ≤ 0x1FF) ∨ (0x100 ≤ off ∧ off < 0x100 + rxMax) := by
  have h := (byteTarget_isSome rxMax off).trans (or_congr_left (bufferAt_isSome rxMax off))
  simp only [decstrBase, txbufBase, rxbufBase, Config.decStrLen, Config.txFrameLen, lastOffset] at h
  exact h.trans (by omega)

/-- Settles O41: each access answers at its target, and the targets' offsets are those of R38. -/
theorem onlyAdmittedAccessesComplete : Obligations.OnlyAdmittedAccessesComplete := by
  intro s off v32 v16 v8 rest
  have read (w : Width) : Answers (target s.rxMax w off) (step { s with pending := .read w off :: rest }) :=
    step_read s w off rest ▸ busRead_answers w off { s with pending := rest }
  have write8 : Answers (target s.rxMax .w8 off) (step { s with pending := .write8 off v8 :: rest }) :=
    step_write8 s off v8 rest ▸ busWrite8_answers off v8 { s with pending := rest }
  have write32 (h : off ≠ 0) : Answers (target s.rxMax .w32 off) (step { s with pending := .write32 off v32 :: rest }) :=
    step_write32 s v32 rest h ▸ busWrite32_answers off v32 { s with pending := rest }
  exact ⟨(read .w32).completes_iff.trans (target_w32_isSome s.rxMax off),
    (read .w8).completes_iff.trans (target_w8_isSome s.rxMax off),
    write8.completes_iff.trans (target_w8_isSome s.rxMax off),
    fun h => (write32 h).completes_iff.trans (read .w32).completes_iff.symm,
    (read .w16).faults rfl,
    step_access rfl (fetch_write16 off v16),
    fun w => (read w).busError, write8.busError, fun h => (write32 h).busError⟩

/-! ## Reserved offsets -/

/-- Log 5: above the last word register, a 32-bit access outside the buffers reaches a reserved offset. -/
theorem target_w32_reserved {rxMax off : Nat} (hal : off % 4 = 0) (hlo : 0x050 < off) (hhi : off ≤ 0x1FF)
    (hb : bufferAt rxMax off = none) : target rxMax .w32 off = some .reserved := by
  have hr : wordRegs[off / 4]? = none := List.getElem?_eq_none (show 21 ≤ off / 4 by omega)
  show wordTarget rxMax off = some .reserved
  rw [wordTarget, if_neg (by simp only [lastOffset]; omega), hr, hb]
  rfl

/-- Log 5: from DECSTR on, an 8-bit access outside the buffers reaches a reserved offset. -/
theorem target_w8_reserved {rxMax off : Nat} (hlo : 0x060 ≤ off) (hhi : off ≤ 0x1FF)
    (hb : bufferAt rxMax off = none) : target rxMax .w8 off = some .reserved := by
  show byteTarget rxMax off = some .reserved
  rw [byteTarget, hb]
  exact if_neg (by simp only [decstrBase, lastOffset]; omega)

theorem busRead_reserved {w : Width} {off : Nat} {s : State} (h : target s.rxMax w off = some .reserved) :
    busRead w off s = .next { s with readData := 0 } := by
  rw [busRead, h]
  rfl

theorem busWrite32_reserved {off : Nat} {s : State} (v : Word) (h : target s.rxMax .w32 off = some .reserved) :
    busWrite32 off v s = .next s := by
  rw [busWrite32, h]

theorem busWrite8_reserved {off : Nat} {s : State} (v : Byte) (h : target s.rxMax .w8 off = some .reserved) :
    busWrite8 off v s = .next s := by
  rw [busWrite8, h]

/-- Settles O42: outside the buffers and above the word registers both admitted widths reach a reserved offset. -/
theorem reservedOffsetsReadZero : Obligations.ReservedOffsetsReadZero := by
  rintro s off v32 v8 _ rfl hhi hb
  refine ⟨fun hal hlo => ?_, fun hlo => ?_⟩
  · have ht : target s.rxMax .w32 off = some .reserved := target_w32_reserved hal hlo hhi hb
    exact ⟨(step_read s .w32 off s.pending).trans (busRead_reserved ht),
      (step_write32 s v32 s.pending (by omega)).trans (busWrite32_reserved v32 ht)⟩
  · have ht : target s.rxMax .w8 off = some .reserved := target_w8_reserved hlo hhi hb
    exact ⟨(step_read s .w8 off s.pending).trans (busRead_reserved ht),
      (step_write8 s off v8 s.pending).trans (busWrite8_reserved v8 ht)⟩

/-! ## What a write of a word register stores -/

theorem regOffset_ne_zero {r : Reg} (h : r ≠ .cmd) : regOffset r ≠ 0 := by
  cases r with
  | cmd => exact absurd rfl h
  | _ => decide

/-- R38, R41: a 32-bit write at the offset of a word register other than CMD is a write of that register. -/
theorem step_write_regOffset (s : State) {r : Reg} (v : Word) (h : r ≠ .cmd) :
    step { s with pending := .write32 (regOffset r) v :: s.pending } = .next (s.writeReg r v) := by
  rw [step_write32 s v s.pending (regOffset_ne_zero h), busWrite32, target_regOffset]

/-- R26, R28 to R32: STATUS and the output registers, which a host write does not change. -/
def readOnlyRegs : List Reg :=
  [.status, .resAddr, .resLen, .resScoped, .txLrc, .txLen, .rxEcho, .rxPayload, .rxData, .tempInt, .tempFrac, .pstate,
   .decLen]

/-- R41 (c): a write of STATUS or of an output register stores nothing. -/
theorem writeReg_readOnly {r : Reg} (s : State) (v : Word) (h : r ∈ readOnlyRegs) : s.writeReg r v = s := by
  cases r with
  | ctrl | slave | addr | value | chan | chcount | rxLen => exact absurd h (by decide)
  | _ => rfl

/-- Settles O44: one rule for the write of a register, and what the register stores. -/
theorem hostWritesStoreTheirValues : Obligations.HostWritesStoreTheirValues := by
  rintro s v _ rfl
  have write {r : Reg} (h : r ≠ .cmd) := step_write_regOffset s v h
  refine ⟨write (r := .slave) nofun, write (r := .addr) nofun, write (r := .value) nofun, write (r := .rxLen) nofun,
    write (r := .chan) nofun, write (r := .chcount) nofun, write (r := .ctrl) nofun, ?_⟩
  show ∀ off ∈ readOnlyRegs.map regOffset, _
  refine List.forall_mem_map.mpr fun r hr => ?_
  rw [write (ne_of_mem_of_not_mem hr (by decide)), writeReg_readOnly s v hr]

/-! ## The inputs are taken in order -/

@[simp] theorem writeReg_pending (s : State) (r : Reg) (v : Word) : (s.writeReg r v).pending = s.pending := by
  unfold State.writeReg
  repeat' split
  all_goals rfl

theorem hostAccess_pending {op : HostOp} {s t : State} (h : hostAccess op s = .next t) : t.pending = s.pending := by
  rcases hostAccess_cases h with rfl | ⟨r, v, rfl⟩ | frame
  · cases h
    rfl
  · exact writeReg_pending s r v
  · rw [frame.fields]

theorem exec_pending {i : Instr} {s t : State} (h : exec i s = .next t) : t.pending = s.pending := by
  cases hc : isCommand i with
  | false => rw [(exec_frame_hostFrame hc h).fields]
  | true =>
    by_cases hr : i = .softReset
    · subst hr
      cases h
      rfl
    · rw [(exec_commandFrame hc hr h).operands]

/-- Settles O50, by the four things a step can do, none of which touches the inputs that are left. -/
theorem stepConsumesOneInput : Obligations.StepConsumesOneInput := by
  intro s t h
  rcases step_cases h with ⟨hp, hr⟩ | ⟨_, _, _, hp, _, hr⟩ | ⟨_, _, hp, _, hr⟩ | ⟨_, _, hp, _, hr⟩ <;> rw [hp]
  · cases hr
    exact hp
  · exact (exec_pending hr.symm :)
  · rw [illegalWord_next hr.symm]
    rfl
  · exact (hostAccess_pending hr.symm :)

end Sys2Proof.Machine
end

section
/-! PROOFS of the statements of 30_encoding.md: the two encodings and their decoders (O1, O2, O3, O4), the layout of a
request frame (O10), what the line commands read (O25), and a line against its transactions (O46). -/

namespace Sys2Proof.Machine

/-! ## Hex digits in a line -/

theorem hexVal_hexChar_div (b : Byte) : hexVal (hexChar (b.toNat / 16)) = some (b.toNat / 16) :=
  hexVal_hexChar (by omega)

theorem hexVal_hexChar_mod (b : Byte) : hexVal (hexChar (b.toNat % 16)) = some (b.toNat % 16) :=
  hexVal_hexChar (by omega)

theorem hexVal_of_mem_hex2 {c : Byte} {b : Byte} (h : c ∈ hex2 b) : hexVal c ≠ none := by
  simp only [hex2, List.mem_cons, List.not_mem_nil, or_false] at h
  rcases h with rfl | rfl
  · simp [hexVal_hexChar_div]
  · simp [hexVal_hexChar_mod]

theorem hexVal_of_mem_hex4 {c : Byte} {w : Half} (h : c ∈ hex4 w) : hexVal c ≠ none :=
  (List.mem_append.mp h).elim hexVal_of_mem_hex2 hexVal_of_mem_hex2

/-- R64, R76: where the two characters of a byte stand, the byte is read. -/
theorem parse2_of_prefix {L : List Byte} {i : Nat} {b : Byte} (h : hex2 b <+: L.drop i) :
    parse2 L i = some b.toNat := by
  obtain ⟨after, h⟩ := h
  have hi : L[i]? = some (hexChar (b.toNat / 16)) := by
    rw [← Nat.add_zero i, ← List.getElem?_drop, ← h]
    rfl
  have hi1 : L[i + 1]? = some (hexChar (b.toNat % 16)) := by
    rw [← List.getElem?_drop, ← h]
    rfl
  simp only [parse2, hi, hi1, hexVal_hexChar_div, hexVal_hexChar_mod, Nat.div_add_mod]

/-- R43: a 16-bit word is its high byte and its low byte. -/
theorem hiByte_loByte_toNat (w : Half) : 256 * (hiByte w).toNat + (loByte w).toNat = w.toNat := by
  simp only [hiByte, loByte, BitVec.extractLsb'_toNat, Nat.shiftRight_eq_div_pow]
  omega

/-- R65, R77: where the four characters of a 16-bit word stand, the word is read. -/
theorem parse4_of_prefix {L : List Byte} {i : Nat} {w : Half} (h : hex4 w <+: L.drop i) :
    parse4 L i = some w.toNat := by
  obtain ⟨after, h⟩ := h
  have hhi : parse2 L i = some (hiByte w).toNat :=
    parse2_of_prefix ⟨hex2 (loByte w) ++ after, by rw [← h, hex4, List.append_assoc]⟩
  have hlo : parse2 L (i + 2) = some (loByte w).toNat :=
    parse2_of_prefix ⟨after, by rw [← List.drop_drop, ← h]; rfl⟩
  simp only [parse4, hhi, hlo, hiByte_loByte_toNat]

/-! ## The fields of a frame's text -/

section
variable (slave fc : Byte) (a d : Half) (e : Byte)

@[simp] theorem parse2_frameText_slave : parse2 (frameText slave fc a d e) 1 = some slave.toNat :=
  parse2_of_prefix ⟨_, rfl⟩

@[simp] theorem parse2_frameText_fc : parse2 (frameText slave fc a d e) 3 = some fc.toNat :=
  parse2_of_prefix ⟨_, rfl⟩

@[simp] theorem parse4_frameText_addr : parse4 (frameText slave fc a d e) 5 = some a.toNat :=
  parse4_of_prefix ⟨_, rfl⟩

@[simp] theorem parse4_frameText_data : parse4 (frameText slave fc a d e) 9 = some d.toNat :=
  parse4_of_prefix ⟨_, rfl⟩

@[simp] theorem parse2_frameText_lrc : parse2 (frameText slave fc a d e) 13 = some e.toNat :=
  parse2_of_prefix ⟨_, rfl⟩

/-- R55, R56: a frame is a colon, 14 hex digits, CR and LF. -/
theorem frameText_digits : ∃ digits, frameText slave fc a d e = chColon :: (digits ++ [chCR, chLF]) ∧
    digits.length = 14 ∧ ∀ c ∈ digits, hexVal c ≠ none := by
  refine ⟨hex2 slave ++ hex2 fc ++ hex4 a ++ hex4 d ++ hex2 e, rfl, rfl, fun c hc => ?_⟩
  simp only [List.mem_append] at hc
  rcases hc with (((h | h) | h) | h) | h
  · exact hexVal_of_mem_hex2 h
  · exact hexVal_of_mem_hex2 h
  · exact hexVal_of_mem_hex4 h
  · exact hexVal_of_mem_hex4 h
  · exact hexVal_of_mem_hex2 h

theorem hexVal_frameText {k : Nat} {c : Byte} (h1 : 1 ≤ k) (h14 : k ≤ 14)
    (h : (frameText slave fc a d e)[k]? = some c) : hexVal c ≠ none := by
  obtain ⟨digits, htext, hlen, hhex⟩ := frameText_digits slave fc a d e
  obtain ⟨j, rfl⟩ : ∃ j, k = j + 1 := ⟨k - 1, by omega⟩
  rw [htext, List.getElem?_cons_succ, List.getElem?_append_left (by omega)] at h
  exact hhex c (List.mem_of_getElem? h)

end

/-- Settles O10, from the places of the fields in a frame's text. -/
theorem requestFrameLayout : Obligations.RequestFrameLayout := by
  rintro fc slave a d _ rfl
  refine ⟨rfl, rfl, fun k c => hexVal_frameText slave fc a d _, rfl, rfl, ?_⟩
  simp [requestText]

/-! ## Command words and their fields -/

/-- R51: the word with the given opcode, SYM and CH, its reserved bits 0. -/
def commandWord (op sym : BitVec 4) (ch : Bool) : Word := op.setWidth 32 ||| symBits sym ||| chBits ch

section
variable (op sym : BitVec 4) (ch : Bool)

@[simp] theorem opField_commandWord : opField (commandWord op sym ch) = op := by
  revert op sym ch; decide

@[simp] theorem symField_commandWord : symField (commandWord op sym ch) = sym := by
  revert op sym ch; decide

@[simp] theorem chField_commandWord : chField (commandWord op sym ch) = ch := by
  revert op sym ch; decide

@[simp] theorem rsvField_commandWord : rsvField (commandWord op sym ch) = 0 := by
  revert op sym ch; decide

end

/-- R51: a word whose reserved bits are 0 is the word of its other fields. -/
theorem commandWord_eq {w : Word} {op sym : BitVec 4} {ch : Bool} (hr : rsvField w = 0) (ho : opField w = op)
    (hs : symField w = sym) (hc : chField w = ch) : commandWord op sym ch = w :=
  word_eq_of_fields (by simp [ho]) (by simp [hs]) (by simp [hc]) (by simp [hr])

/-! The codes of the commands that take an operand, by the fields of their words (R53). -/

theorem encode_encRead (ch : Bool) : encode (.encRead ch) = .command (commandWord 1 0 ch) := by
  cases ch <;> rfl

theorem encode_encWrite (ch : Bool) : encode (.encWrite ch) = .command (commandWord 2 0 ch) := by
  cases ch <;> rfl

theorem encode_encReadSym (sym : BitVec 4) : encode (.encReadSym sym) = .command (commandWord 3 sym false) := by
  simp [encode, commandWord, chBits]

theorem encode_encWriteSym (sym : BitVec 4) : encode (.encWriteSym sym) = .command (commandWord 4 sym false) := by
  simp [encode, commandWord, chBits]

theorem encode_resolve (sym : BitVec 4) : encode (.resolve sym) = .command (commandWord 5 sym false) := by
  simp [encode, commandWord, chBits]

/-! ## Decoding what was encoded -/

theorem decodeLine_frameText (slave fc : Byte) (a d : Half) (e : Byte) :
    decodeLine (frameText slave fc a d e) =
      if fc = 0x03 then some (.fc03ReadHolding slave a d e)
      else if fc = 0x06 then some (.fc06WriteSingle slave a d e)
      else none := by
  have h3 : fc.toNat = 0x03 ↔ fc = 0x03 := BitVec.toNat_inj (y := 3#8)
  have h6 : fc.toNat = 0x06 ↔ fc = 0x06 := BitVec.toNat_inj (y := 6#8)
  simp [decodeLine, h3, h6]

theorem decode_encode {i : Instr} (h : i.wellFormed = true) : decode (encode i) = some i := by
  cases i with
  | encRead ch | encWrite ch => cases ch <;> rfl
  | encReadSym sym => simpa [encode_encReadSym, decode, decodeCommand, symForm, Instr.wellFormed] using h
  | encWriteSym sym => simpa [encode_encWriteSym, decode, decodeCommand, symForm, Instr.wellFormed] using h
  | resolve sym => simpa [encode_resolve, decode, decodeCommand, symForm, Instr.wellFormed] using h
  | fc03ReadHolding slave a d e => exact decodeLine_frameText slave 0x03 a d e
  | fc06WriteSingle slave a d e => exact decodeLine_frameText slave 0x06 a d e
  | _ => rfl

/-- Settles O1, by cases on the instruction: each field of its word or line is read back. -/
theorem decodeInvertsEncode : Obligations.DecodeInvertsEncode := fun _ => decode_encode

/-- Settles O4: the words and lines are the codes of these instructions, but one word with SYM 13. -/
theorem writtenOutWordsDecode : Obligations.WrittenOutWordsDecode :=
  ⟨decode_encode (i := .nop) rfl, decode_encode (i := .encRead true) rfl, decode_encode (i := .encWrite false) rfl,
   decode_encode (i := .encReadSym 1) rfl, decode_encode (i := .encWriteSym 11) rfl,
   decode_encode (i := .resolve 12) rfl, decode_encode (i := .lrcCheck) rfl, by decide,
   decode_encode (i := .fc03ReadHolding 0x02 0x0130 0x0001 0xC9) rfl,
   decode_encode (i := .fc06WriteSingle 0x02 0x0163 0x0064 0x30) rfl⟩

/-! ## Encoding what was decoded -/

/-! R53: the opcodes by the operand they take. -/

abbrev TakesNone (op : BitVec 4) : Prop := op.toNat = 0 ∨ 6 ≤ op.toNat ∧ op.toNat ≤ 10 ∨ op.toNat = 15

abbrev TakesCh (op : BitVec 4) : Prop := op.toNat = 1 ∨ op.toNat = 2

abbrev TakesSym (op : BitVec 4) : Prop := 3 ≤ op.toNat ∧ op.toNat ≤ 5

/-- How the decoder reads a word whose reserved bits are 0: by one of the three forms, with the command that has the word's
opcode, or not at all. -/
inductive ReadAs (w : Word) : Option Instr → Prop
  | plain (i : Instr) (hop : TakesNone (opField w)) (hwf : i.wellFormed = true)
      (hi : encode i = .command (commandWord (opField w) 0 false)) : ReadAs w (plainForm w i)
  | ch (f : Bool → Instr) (hop : TakesCh (opField w)) (hwf : ∀ ch, (f ch).wellFormed = true)
      (hf : ∀ ch, encode (f ch) = .command (commandWord (opField w) 0 ch)) : ReadAs w (chForm w f)
  | sym (f : BitVec 4 → Instr) (hop : TakesSym (opField w)) (hwf : ∀ sym, (f sym).wellFormed = symOk sym)
      (hf : ∀ sym, encode (f sym) = .command (commandWord (opField w) sym false)) : ReadAs w (symForm w f)
  | reserved (hop : 11 ≤ (opField w).toNat ∧ (opField w).toNat ≤ 14) : ReadAs w none

theorem decodeCommand_of_rsv_ne_zero {w : Word} (hr : rsvField w ≠ 0) : decodeCommand w = none := if_pos hr

theorem decodeCommand_readAs {w : Word} (hr : rsvField w = 0) : ReadAs w (decodeCommand w) := by
  have op_eq {k : Nat} (h : (opField w).toNat = k) : opField w = BitVec.ofNat 4 k := by simp [← h]
  rw [decodeCommand, if_neg (not_not_intro hr)]
  split
  case h_2 hop => exact .ch _ (by omega) (fun _ => rfl) (op_eq hop ▸ encode_encRead)
  case h_3 hop => exact .ch _ (by omega) (fun _ => rfl) (op_eq hop ▸ encode_encWrite)
  case h_4 hop => exact .sym _ (by omega) (fun _ => rfl) (op_eq hop ▸ encode_encReadSym)
  case h_5 hop => exact .sym _ (by omega) (fun _ => rfl) (op_eq hop ▸ encode_encWriteSym)
  case h_6 hop => exact .sym _ (by omega) (fun _ => rfl) (op_eq hop ▸ encode_resolve)
  case h_13 =>
    have := (opField w).isLt
    simp only [imp_false] at *
    exact .reserved (by omega)
  all_goals
    rename_i hop
    exact .plain _ (by omega) rfl (by rw [op_eq hop]; rfl)

/-- R53: what is read from a word is the command of that word. -/
theorem encode_of_decodeCommand {w : Word} {i : Instr} (h : decodeCommand w = some i) :
    i.wellFormed = true ∧ encode i = .command w := by
  have hr : rsvField w = 0 :=
    Decidable.byContradiction fun hr => nomatch (decodeCommand_of_rsv_ne_zero hr).symm.trans h
  have read := decodeCommand_readAs hr
  generalize decodeCommand w = result at read h
  cases read with
  | plain i' _ hwf hi =>
    obtain ⟨⟨hs, hc⟩, ⟨⟩⟩ := Option.ite_none_right_eq_some.mp h
    exact ⟨hwf, hi.trans (congrArg Code.command (commandWord_eq hr rfl hs hc))⟩
  | ch f _ hwf hf =>
    obtain ⟨hs, ⟨⟩⟩ := Option.ite_none_right_eq_some.mp h
    exact ⟨hwf _, (hf _).trans (congrArg Code.command (commandWord_eq hr rfl hs rfl))⟩
  | sym f _ hwf hf =>
    obtain ⟨⟨hok, hc⟩, ⟨⟩⟩ := Option.ite_none_right_eq_some.mp h
    exact ⟨(hwf _).trans hok, (hf _).trans (congrArg Code.command (commandWord_eq hr rfl rfl hc))⟩
  | reserved _ => cases h

/-- Settles O2: a word is that of its fields, and a line is read only when it is the text of its fields. -/
theorem encodeInvertsDecode : Obligations.EncodeInvertsDecode := by
  intro c i h
  cases c with
  | command w => exact encode_of_decodeCommand h
  | line text =>
    rcases decodeLine_some h with ⟨_, _, _, _, rfl, rfl⟩ | ⟨_, _, _, _, rfl, rfl⟩ <;> exact ⟨rfl, rfl⟩

/-- The decoder and the encoder as one relation. -/
theorem decode_eq_some_iff {c : Code} {i : Instr} : decode c = some i ↔ i.wellFormed = true ∧ encode i = c :=
  ⟨encodeInvertsDecode c i, fun ⟨hi, hc⟩ => hc ▸ decode_encode hi⟩

/-! ## Which words are legal -/

/-- R53: the conditions on the fields of a legal word. -/
def LegalFields (op sym : BitVec 4) (ch : Bool) (rsv : BitVec 23) : Prop :=
  ¬(0xB ≤ op.toNat ∧ op.toNat ≤ 0xE) ∧ rsv.toNat = 0 ∧ (ch = true → op.toNat = 1 ∨ op.toNat = 2) ∧
    (sym.toNat ≠ 0 → 3 ≤ op.toNat ∧ op.toNat ≤ 5) ∧ (3 ≤ op.toNat → op.toNat ≤ 5 → sym.toNat ≤ 12)

section
variable {op sym : BitVec 4} {ch : Bool} {rsv : BitVec 23}

theorem LegalFields.rsv_eq_zero (h : LegalFields op sym ch rsv) : rsv = 0 := BitVec.eq_of_toNat_eq h.2.1

theorem legalFields_plain (hr : rsv = 0) (h : TakesNone op) :
    LegalFields op sym ch rsv ↔ sym = 0 ∧ ch = false := by
  cases ch <;> simp [LegalFields, BitVec.toNat_eq, hr] <;> omega

theorem legalFields_ch (hr : rsv = 0) (h : TakesCh op) : LegalFields op sym ch rsv ↔ sym = 0 := by
  simp [LegalFields, BitVec.toNat_eq, h, hr]
  omega

theorem legalFields_sym (hr : rsv = 0) (h : TakesSym op) :
    LegalFields op sym ch rsv ↔ symOk sym = true ∧ ch = false := by
  cases ch <;> simp [LegalFields, symOk, hr] <;> omega

end

/-- R53: a word decodes exactly when its fields are legal. -/
theorem decodeCommand_isSome {w : Word} :
    (decodeCommand w).isSome = true ↔ LegalFields (opField w) (symField w) (chField w) (rsvField w) := by
  by_cases hr : rsvField w = 0
  · have read := decodeCommand_readAs hr
    generalize decodeCommand w = result at read ⊢
    cases read with
    | plain i hop => exact Option.isSome_ite.trans (legalFields_plain hr hop).symm
    | ch f hop => exact Option.isSome_ite.trans (legalFields_ch hr hop).symm
    | sym f hop => exact Option.isSome_ite.trans (legalFields_sym hr hop).symm
    | reserved hop => exact iff_of_false nofun fun hl => hl.1 hop
  · exact iff_of_false (by simp [decodeCommand_of_rsv_ne_zero hr]) fun hl => hr hl.rsv_eq_zero

/-! ## The match/mask table -/

/-- R53's table: every mask covers OP and the reserved bits, and only OP has match bits that are not 0. -/
theorem commandTable_masks : ∀ r ∈ commandTable,
    opField r.mask = BitVec.allOnes 4 ∧ rsvField r.mask = BitVec.allOnes 23 ∧ rsvField r.matchBits = 0 ∧
    symField r.matchBits = 0 ∧ chField r.matchBits = false := by
  decide

/-- R53's table has the three forms of the opcodes: no operand, CH, SYM. -/
theorem commandTable_forms : ∀ r ∈ commandTable,
    (TakesNone (opField r.matchBits) ∧
      symField r.mask = BitVec.allOnes 4 ∧ chField r.mask = true ∧ r.symLimited = false) ∨
    (TakesCh (opField r.matchBits) ∧
      symField r.mask = BitVec.allOnes 4 ∧ chField r.mask = false ∧ r.symLimited = false) ∨
    (TakesSym (opField r.matchBits) ∧ symField r.mask = 0 ∧ chField r.mask = true ∧ r.symLimited = true) := by
  decide

/-- The rows of R53's table differ in the opcode. -/
theorem commandTable_opField_injective : ∀ r ∈ commandTable, ∀ r' ∈ commandTable,
    opField r.matchBits = opField r'.matchBits → r = r' := by
  decide

theorem exists_row_of_opcode : ∀ op : BitVec 4, ¬(0xB ≤ op.toNat ∧ op.toNat ≤ 0xE) →
    ∃ r ∈ commandTable, op = opField r.matchBits := by
  decide

/-- A masked comparison is one of each field. -/
theorem and_eq_iff_fields {w mask v : Word} : w &&& mask = v ↔
    opField w &&& opField mask = opField v ∧ symField w &&& symField mask = symField v ∧
      (chField w && chField mask) = chField v ∧ rsvField w &&& rsvField mask = rsvField v := by
  have ho : opField (w &&& mask) = opField w &&& opField mask := BitVec.extractLsb'_and
  have hs : symField (w &&& mask) = symField w &&& symField mask := BitVec.extractLsb'_and
  have hr : rsvField (w &&& mask) = rsvField w &&& rsvField mask := BitVec.extractLsb'_and
  have hc : chField (w &&& mask) = (chField w && chField mask) := BitVec.getLsbD_and
  rw [← ho, ← hs, ← hc, ← hr]
  exact ⟨fun h => h ▸ ⟨rfl, rfl, rfl, rfl⟩, fun ⟨ho, hs, hc, hr⟩ => word_eq_of_fields ho hs hc hr⟩

/-- R53: a word matches a row when it is legal and has the row's opcode. -/
theorem matches_iff {r : CommandRow} {w : Word} (hrow : r ∈ commandTable) : r.matches w = true ↔
    opField w = opField r.matchBits ∧ LegalFields (opField w) (symField w) (chField w) (rsvField w) := by
  obtain ⟨hop, hrsv, hv, hsym, hch⟩ := commandTable_masks r hrow
  rw [CommandRow.matches, Bool.and_eq_true, beq_iff_eq, and_eq_iff_fields, hop, hrsv, hv, hsym, hch,
    BitVec.and_allOnes, BitVec.and_allOnes]
  by_cases hr : rsvField w = 0
  · rw [and_assoc]
    refine and_congr_right fun ho => ?_
    rcases commandTable_forms r hrow with ⟨h, hs, hc, hl⟩ | ⟨h, hs, hc, hl⟩ | ⟨h, hs, hc, hl⟩
    · rw [legalFields_plain hr (ho ▸ h), hs, hc, hl, BitVec.and_allOnes]
      simp [hr]
    · rw [legalFields_ch hr (ho ▸ h), hs, hc, hl, BitVec.and_allOnes]
      simp [hr]
    · rw [legalFields_sym hr (ho ▸ h), hs, hc, hl]
      simp [hr, and_comm]
  · exact iff_of_false (fun h => hr h.1.2.2.2) fun h => hr h.2.rsv_eq_zero

/-- R53: the legal words are those that match a row. -/
theorem exists_matches_iff {w : Word} : (∃ r ∈ commandTable, r.matches w = true) ↔
    LegalFields (opField w) (symField w) (chField w) (rsvField w) := by
  constructor
  · rintro ⟨r, hrow, hm⟩
    exact ((matches_iff hrow).mp hm).2
  · intro hl
    obtain ⟨r, hrow, ho⟩ := exists_row_of_opcode (opField w) hl.1
    exact ⟨r, hrow, (matches_iff hrow).mpr ⟨ho, hl⟩⟩

theorem matches_unique {r r' : CommandRow} {w : Word} (hrow : r ∈ commandTable) (hrow' : r' ∈ commandTable)
    (h : r.matches w = true) (h' : r'.matches w = true) : r = r' :=
  commandTable_opField_injective r hrow r' hrow'
    (((matches_iff hrow).mp h).1.symm.trans ((matches_iff hrow').mp h').1)

/-- R100: a word that does not decode changes only ERR. -/
theorem step_undecodable {s : State} {w : Word} {rest : List HostOp} (hp : s.pending = .write32 0x000 w :: rest)
    (h : decode (.command w) = none) :
    step s = .next { s with pending := rest, err := if s.fault then .faulted else .illegal } := by
  rw [step_illegal hp (fetch_illegal h), illegalWord]
  cases hf : s.fault <;> rfl

/-- Settles O3: decoding and matching a row both come to the conditions on the fields. -/
theorem commandWordLegality : Obligations.CommandWordLegality := by
  intro w
  have hdecode : (∃ i, decode (.command w) = some i) ↔ _ := Option.isSome_iff_exists.symm.trans decodeCommand_isSome
  exact ⟨hdecode, hdecode.trans exists_matches_iff.symm, fun r hr r' hr' => matches_unique hr hr',
    fun h s rest hp => step_undecodable hp h⟩

/-! ## What a line command reads -/

/-- Two results agree up to a relation on their states: both stop with the same fault, or both go on. -/
def AgreeUpTo (R : State → State → Prop) (r r' : Result) : Prop :=
  (∀ t, r = .next t → ∃ t', r' = .next t' ∧ R t t') ∧ ∀ f, r = .fault f → r' = .fault f

theorem agreeUpTo_next {R : State → State → Prop} {t t' : State} (h : R t t') : AgreeUpTo R (.next t) (.next t') :=
  ⟨fun _ e => ⟨t', rfl, Host.Outcome.next.inj e ▸ h⟩, fun _ e => by cases e⟩

theorem agreeUpTo_fault {R : State → State → Prop} (f : Fault) : AgreeUpTo R (.fault f) (.fault f) :=
  ⟨fun _ e => (by cases e), fun _ e => e⟩

/-- The command i, run from a state with the FAULT bit `fault`, reports the same in t' as in t: the error, LRCOK where it
runs, and on success what it has stored. -/
def SameReport (i : Instr) (fault : Bool) (t t' : State) : Prop :=
  t'.err = t.err ∧ (fault = false → t'.lrcok = t.lrcok) ∧
  (t.err = .ok → i ≠ .lrcCheck → t'.rxPayload = t.rxPayload ∧ t'.ev = t.ev ∧ t'.dv = t.dv ∧
    (t.ev = true → t'.rxEcho = t.rxEcho) ∧ (t.dv = true → t'.rxData = t.rxData)) ∧
  (t.err = .ok → i = .decodeTemp → t'.tempInt = t.tempInt ∧ t'.tempFrac = t.tempFrac ∧ t'.shortv = t.shortv ∧
    t'.decLen = t.decLen) ∧
  (t.err = .ok → i = .decodePstate → t'.pstate = t.pstate)

/-- An error is the whole report of a command that fails. -/
theorem sameReport_of_error {i : Instr} {fault : Bool} {t t' : State} (herr : t'.err = t.err) (hne : t.err ≠ .ok)
    (hlrc : fault = false → t'.lrcok = t.lrcok) : SameReport i fault t t' :=
  ⟨herr, hlrc, fun h => absurd h hne, fun h => absurd h hne, fun h => absurd h hne⟩

theorem sameReport_rxFail {i : Instr} {fault : Bool} {e : ErrCode} (s s' : State) (h : e ≠ .ok) :
    SameReport i fault (s.rxFail e) (s'.rxFail e) :=
  sameReport_of_error rfl h fun _ => rfl

theorem getD_map_eq_of_isSome {α β : Type} {o : Option α} (f : α → β) (x y : β) (h : o.isSome = true) :
    (o.map f).getD x = (o.map f).getD y := by
  cases o with
  | some _ => rfl
  | none => cases h

/-- R80: the fields that decode_line stores come from the line alone. -/
theorem sameReport_rxGood (s s' : State) (L : List Byte) (p : Nat) (fault : Bool) :
    SameReport .decode fault (s.rxGood L p) (s'.rxGood L p) :=
  ⟨rfl, fun _ => rfl,
    fun _ _ => ⟨rfl, rfl, rfl, getD_map_eq_of_isSome _ _ _, getD_map_eq_of_isSome _ _ _⟩, nofun, nofun⟩

section
variable {s s' : State}

/-- R54, R115: the line read is fixed by RXLEN and the bytes below it. -/
theorem rxLine_congr (hmax : s'.rxMax = s.rxMax) (hlen : s'.rxLen = s.rxLen)
    (hmem : ∀ k, k < s.rxLen.toNat → Memory.read s'.mem (rxbufBase + k) = Memory.read s.mem (rxbufBase + k)) :
    rxLine s' = rxLine s := by
  rw [rxLine, rxLine, hmax, hlen, Memory.readBytes_congr hmem]

/-- R103: two machines with one FAULT bit refuse a command alike, or both run it. -/
theorem whenNotFaulted_agree {i : Instr} {run run' : Result} (hfault : s'.fault = s.fault)
    (h : AgreeUpTo (SameReport i s.fault) run run') :
    AgreeUpTo (SameReport i s.fault) (whenNotFaulted s run) (whenNotFaulted s' run') := by
  cases hf : s.fault with
  | false => rwa [whenNotFaulted_clear _ hf, whenNotFaulted_clear _ (hfault.trans hf), ← hf]
  | true =>
    rw [whenNotFaulted_faulted _ hf, whenNotFaulted_faulted _ (hfault.trans hf)]
    exact agreeUpTo_next (sameReport_of_error rfl (by simp) nofun)

theorem decodeThen_agree {i : Instr} {post : Nat → State → State} (hfault : s'.fault = s.fault)
    (hlrcen : s'.lrcen = s.lrcen) (hline : rxLine s' = rxLine s)
    (hgood : ∀ L p, SameReport i s.fault (post p (s.rxGood L p)) (post p (s'.rxGood L p))) :
    AgreeUpTo (SameReport i s.fault) (decodeThen post s) (decodeThen post s') := by
  refine whenNotFaulted_agree hfault ?_
  rw [hline, hlrcen]
  cases rxLine s with
  | overlong => exact agreeUpTo_next (sameReport_rxFail s s' (by decide))
  | unwritten => exact agreeUpTo_fault _
  | line L =>
    cases hv : lineVerdict s.lrcen L with
    | bad e =>
      simp only [hv]
      exact agreeUpTo_next (sameReport_rxFail s s' (lineVerdict_bad_ne_ok hv))
    | good p =>
      simp only [hv]
      exact agreeUpTo_next (hgood L p)

theorem execLrcCheck_agree (hfault : s'.fault = s.fault) (hline : rxLine s' = rxLine s) :
    AgreeUpTo (SameReport .lrcCheck s.fault) (execLrcCheck s) (execLrcCheck s') := by
  refine whenNotFaulted_agree hfault ?_
  rw [hline]
  cases rxLine s with
  | overlong => exact agreeUpTo_next (sameReport_rxFail s s' (by decide))
  | unwritten => exact agreeUpTo_fault _
  | line L =>
    cases hv : lrcVerdict L with
    | some e =>
      have hne : e ≠ .ok := by rintro rfl; simpa using lrcVerdict_codes hv
      simp only [hv]
      exact agreeUpTo_next (sameReport_rxFail s s' hne)
    | none =>
      simp only [hv]
      exact agreeUpTo_next ⟨rfl, fun _ => rfl, fun _ h => absurd rfl h, nofun, nofun⟩

end

/-- Settles O25: the four commands read the same line, and what they store comes from it. -/
theorem decodeReadsOnlyTheLine : Obligations.DecodeReadsOnlyTheLine := by
  intro i s s' hi hmax hfault hlrcen hlen hmem
  have hline := rxLine_congr hmax hlen hmem
  cases i with
  | decode =>
    exact decodeThen_agree (post := fun _ t => t) hfault hlrcen hline fun L p => sameReport_rxGood s s' L p s.fault
  | decodeTemp =>
    refine decodeThen_agree hfault hlrcen hline fun L p => ?_
    obtain ⟨herr, hlrc, hfields, _, _⟩ := sameReport_rxGood s s' L p s.fault
    exact ⟨herr, hlrc, fun h _ => hfields h nofun, fun _ _ => ⟨rfl, rfl, rfl, rfl⟩, nofun⟩
  | decodePstate =>
    refine decodeThen_agree hfault hlrcen hline fun L p => ?_
    obtain ⟨herr, hlrc, hfields, _, _⟩ := sameReport_rxGood s s' L p s.fault
    exact ⟨herr, hlrc, fun h _ => hfields h nofun, nofun, fun _ _ => rfl⟩
  | lrcCheck => exact execLrcCheck_agree hfault hline
  | _ => cases hi

/-! ## A received line and its transactions -/

/-- The outcome of n steps of the machine. -/
def runSteps (n : Nat) (s : State) : Result := Host.Core.run core n s

theorem run_succ {M : Host.Core} {s t : M.State} (n : Nat) (h : M.step s = .next t) : M.run (n + 1) s = M.run n t := by
  rw [Host.Core.run, h]

theorem runSteps_succ {s t : State} (n : Nat) (h : step s = .next t) : runSteps (n + 1) s = runSteps n t :=
  run_succ (M := core) n h

/-- R62: the byte writes of LOADRX, run one by one, store the line's characters in RXBUF. -/
theorem runSteps_loadRxBytes {text : List Byte} {i : Nat} (n : Nat) (rest : List HostOp) (s : State)
    (h : i + text.length ≤ s.rxMax) :
    runSteps (text.length + n) { s with pending := loadRxBytes i text ++ rest } =
      runSteps n { s with mem := Memory.writeBytes s.mem (rxbufBase + i) text, pending := rest } := by
  induction text generalizing i s with
  | nil => rw [List.length_nil, Nat.zero_add]; rfl
  | cons c text ih =>
    simp only [List.length_cons] at h
    have hstep := (step_write8 s (rxbufBase + i) c (loadRxBytes (i + 1) text ++ rest)).trans
      (busWrite8_rxbuf c _ (show i < s.rxMax by omega))
    rw [List.length_cons, Nat.add_right_comm]
    exact (runSteps_succ _ hstep).trans
      (ih { s with mem := Memory.write s.mem (rxbufBase + i) c } (show i + 1 + text.length ≤ s.rxMax by omega))

theorem step_write_rxLen (s : State) (v : Word) (rest : List HostOp) :
    step { s with pending := .write32 (regOffset .rxLen) v :: rest } = .next { s with pending := rest, rxLen := v } :=
  (step_write32 s v rest (by decide)).trans (busWrite32_rxLen v _)

/-- Settles O46: the byte writes and then the write of RXLEN leave the state in which the line is loaded. -/
theorem lineEqualsItsTransactions : Obligations.LineEqualsItsTransactions := by
  intro s text rest h
  have hline : step { s with pending := .line text :: rest } = loadLine text { s with pending := rest } := step_line rfl
  calc runSteps (text.length + 1) { s with pending := loadRxOps text ++ rest }
    _ = runSteps (text.length + 1) { s with pending := loadRxBytes 0 text ++
          ([.write32 (regOffset .rxLen) (BitVec.ofNat 32 text.length)] ++ rest) } := by
      rw [loadRxOps, List.append_assoc]
    _ = _ := runSteps_loadRxBytes 1 _ s (by omega)
    _ = _ := runSteps_succ 0 (step_write_rxLen { s with mem := Memory.writeBytes s.mem rxbufBase text } _ rest)
    _ = loadLine text { s with pending := rest } := (loadLine_next { s with pending := rest } h).symm
    _ = step { s with pending := .line text :: rest } := hline.symm

end Sys2Proof.Machine
end

section
/-! PROOFS of the statements of 40_frame_encode.md: hex text and its reading (O6), the LRC (O8, O9), the encode commands
(O11 to O14), their frame (O37), and the round trip of an echoed write frame (O27, O56). -/

namespace Sys2Proof.Machine

/-! ## Hex text -/

/-- R63: a nibble's character is `0`..`9` or `A`..`F`. -/
theorem hexChar_range {n : Nat} (h : n < 16) :
    (0x30 ≤ (hexChar n).toNat ∧ (hexChar n).toNat ≤ 0x39) ∨ (0x41 ≤ (hexChar n).toNat ∧ (hexChar n).toNat ≤ 0x46) := by
  have all : ∀ k : Fin 16, (0x30 ≤ (hexChar k.val).toNat ∧ (hexChar k.val).toNat ≤ 0x39) ∨
      (0x41 ≤ (hexChar k.val).toNat ∧ (hexChar k.val).toNat ≤ 0x46) := by decide
  exact all ⟨n, h⟩

theorem exists_hexChar_of_mem_hex2 {c b : Byte} (h : c ∈ hex2 b) : ∃ n < 16, c = hexChar n := by
  simp only [hex2, List.mem_cons, List.not_mem_nil, or_false] at h
  rcases h with rfl | rfl
  · exact ⟨b.toNat / 16, by omega, rfl⟩
  · exact ⟨b.toNat % 16, by omega, rfl⟩

theorem exists_hexChar_of_mem_hex4 {c : Byte} {w : Half} (h : c ∈ hex4 w) : ∃ n < 16, c = hexChar n :=
  (List.mem_append.mp h).elim exists_hexChar_of_mem_hex2 exists_hexChar_of_mem_hex2

/-- Settles O6: from its place on, the line begins with what was written. -/
theorem hexReadsBackWhatWasWritten : Obligations.HexReadsBackWhatWasWritten := by
  refine ⟨fun before after b => parse2_of_prefix ⟨after, ?_⟩, fun before after w => parse4_of_prefix ⟨after, ?_⟩,
    fun w c hc => ?_⟩
  · rw [List.append_assoc, List.drop_left]
  · rw [List.append_assoc, List.drop_left]
  · obtain ⟨n, hn, rfl⟩ := exists_hexChar_of_mem_hex4 hc
    exact hexChar_range hn

/-! ## The two bytes of a 16-bit word -/

@[simp] theorem hiByte_toNat (w : Half) : (hiByte w).toNat = w.toNat / 256 := by
  simp only [hiByte, BitVec.extractLsb'_toNat, Nat.shiftRight_eq_div_pow]
  omega

@[simp] theorem loByte_toNat (w : Half) : (loByte w).toNat = w.toNat % 256 := by
  simp only [loByte, BitVec.extractLsb'_toNat, Nat.shiftRight_eq_div_pow]
  omega

theorem hiByte_eq_ofNat (w : Half) : hiByte w = BitVec.ofNat 8 (w.toNat / 256) := by
  rw [← hiByte_toNat, BitVec.ofNat_toNat, BitVec.setWidth_eq]

theorem loByte_eq_ofNat (w : Half) : loByte w = BitVec.ofNat 8 (w.toNat % 256) := by
  rw [← loByte_toNat, BitVec.ofNat_toNat, BitVec.setWidth_eq]

/-! ## The LRC -/

/-- The one's complement of a byte's value. -/
theorem xor_0xFF {s : Nat} (h : s < 256) : s ^^^ 0xFF = 255 - s := by
  have hnot : (BitVec.ofNat 8 s ^^^ BitVec.allOnes 8).toNat = 255 - (BitVec.ofNat 8 s).toNat := by
    rw [BitVec.xor_allOnes, BitVec.toNat_not]
  rwa [BitVec.toNat_xor, BitVec.toNat_ofNat, Nat.mod_eq_of_lt h] at hnot

theorem lrc_toNat_complement (bytes : List Byte) :
    (lrc bytes).toNat = ((byteSum bytes % 256 ^^^ 0xFF) + 1) % 256 := by
  simp [lrc]

/-- R66: the LRC is the sum's negation modulo 256. -/
theorem lrc_toNat (bytes : List Byte) : (lrc bytes).toNat = (256 - byteSum bytes % 256) % 256 := by
  rw [lrc_toNat_complement, xor_0xFF (Nat.mod_lt _ (by decide))]
  omega

/-- Settles O8: the complement of a byte's value is 255 minus it, and the checksum stands at index 13. -/
theorem lrcNegatesTheSum : Obligations.LrcNegatesTheSum := by
  refine ⟨?_, fun fc slave a d => ?_⟩
  · rintro bytes _ rfl
    have hneg := lrc_toNat bytes
    refine ⟨lrc_toNat_complement bytes, hneg, fun hzero => ?_⟩
    rw [hneg, byteSum, hzero]
  · rw [requestText, parse2_frameText_lrc, frameBytes, hiByte_eq_ofNat, loByte_eq_ofNat, hiByte_eq_ofNat,
      loByte_eq_ofNat]

theorem byteSum_append (bs cs : List Byte) : byteSum (bs ++ cs) = byteSum bs + byteSum cs := by
  simp [byteSum]

/-- R67: bytes followed by their LRC sum to 0 modulo 256. -/
theorem byteSum_append_lrc (bs : List Byte) : byteSum (bs ++ [lrc bs]) % 256 = 0 := by
  have hneg := lrc_toNat bs
  have hsingle : byteSum [lrc bs] = (lrc bs).toNat := by simp [byteSum]
  rw [byteSum_append, hsingle]
  omega

/-! ## A stripped frame is a colon and the hex text of its bytes -/

/-- R55, R79: a colon and two hex characters for each byte. -/
def hexLine (bs : List Byte) : List Byte := chColon :: bs.flatMap hex2

theorem stripEol_append_crlf {L : List Byte} {c : Byte} (h : isEol c = false) :
    stripEol (L ++ [c, chCR, chLF]) = L ++ [c] := by
  have hrev : (L ++ [c, chCR, chLF]).reverse = chLF :: chCR :: c :: L.reverse := by simp
  rw [stripEol, hrev, List.dropWhile_cons_of_pos (by decide), List.dropWhile_cons_of_pos (by decide),
    List.dropWhile_cons_of_neg (by simp [h]), List.reverse_cons, List.reverse_reverse]

theorem isEol_hexChar {n : Nat} (h : n < 16) : isEol (hexChar n) = false := by
  have all : ∀ k : Fin 16, isEol (hexChar k.val) = false := by decide
  exact all ⟨n, h⟩

/-- R78: stripping a frame takes away its CR LF. -/
theorem stripEol_frameText (slave fc : Byte) (a d : Half) (e : Byte) :
    stripEol (frameText slave fc a d e) = hexLine (frameBytes slave fc a d ++ [e]) :=
  stripEol_append_crlf
    (L := chColon :: (hex2 slave ++ hex2 fc ++ hex4 a ++ hex4 d ++ [hexChar (e.toNat / 16)]))
    (isEol_hexChar (Nat.mod_lt _ (by decide)))

theorem flatMap_hex2_length (bs : List Byte) : (bs.flatMap hex2).length = 2 * bs.length := by
  induction bs with
  | nil => rfl
  | cons b rest ih =>
    rw [List.flatMap_cons, List.length_append, hex2_length, ih, List.length_cons]
    omega

theorem hexLine_length (bs : List Byte) : (hexLine bs).length = 2 * bs.length + 1 := by
  rw [hexLine, List.length_cons, flatMap_hex2_length]

theorem isHex_hexLine_tail (bs : List Byte) : (hexLine bs).tail.all isHex = true := by
  refine List.all_eq_true.mpr fun c hc => ?_
  obtain ⟨b, _, hb⟩ := List.mem_flatMap.mp hc
  exact Option.isSome_iff_ne_none.mpr (hexVal_of_mem_hex2 hb)

/-- R76: reading further on in a line is reading in the rest of it. -/
theorem parse2_append_right (L M : List Byte) (i : Nat) : parse2 (L ++ M) (L.length + i) = parse2 M i := by
  simp [parse2, List.getElem?_append_right, Nat.add_assoc]

theorem parse2_flatMap_hex2 (bs : List Byte) (j : Nat) : parse2 (bs.flatMap hex2) (2 * j) = bs[j]?.map BitVec.toNat := by
  induction bs generalizing j with
  | nil => rfl
  | cons b rest ih =>
    cases j with
    | zero => exact parse2_of_prefix ⟨rest.flatMap hex2, rfl⟩
    | succ j =>
      rw [List.flatMap_cons, Nat.mul_succ, Nat.add_comm, ← hex2_length b, parse2_append_right, hex2_length, ih,
        List.getElem?_cons_succ]

/-- R79: the pairs of characters after the colon are the bytes. -/
theorem parse2_hexLine (bs : List Byte) (j : Nat) : parse2 (hexLine bs) (1 + 2 * j) = bs[j]?.map BitVec.toNat :=
  (parse2_append_right [chColon] _ _).trans (parse2_flatMap_hex2 bs j)

/-- R79: the sum of the pairs is the sum of the bytes. -/
theorem pairSum_hexLine (bs : List Byte) : pairSum (hexLine bs) = byteSum bs := by
  have hlen : ((hexLine bs).length - 1) / 2 = bs.length := by
    rw [hexLine_length]
    omega
  simp only [pairSum, byteSum, hlen, parse2_hexLine]
  refine congrArg List.sum (List.ext_getElem (by simp) fun i _ hi => ?_)
  rw [List.length_map] at hi
  simp [hi]

/-- R80: the only check that hex text after a colon can fail is that of the sum. -/
theorem frameError_hexLine (bs : List Byte) :
    frameError (hexLine bs) = if byteSum bs % 256 = 0 then none else some .lrc := by
  have hcolon : (hexLine bs)[0]? = some chColon := rfl
  have heven : ((hexLine bs).length - 1) % 2 = 0 := by
    rw [hexLine_length]
    omega
  rw [frameError, if_neg (not_not_intro hcolon), if_neg (not_not_intro heven), isHex_hexLine_tail, pairSum_hexLine,
    if_neg (by decide), ite_not]

theorem frameError_append_lrc (bs : List Byte) : frameError (hexLine (bs ++ [lrc bs])) = none := by
  rw [frameError_hexLine, if_pos (byteSum_append_lrc bs)]

theorem frameOk_append_lrc {bs : List Byte} (h : bs ≠ []) : frameOk (hexLine (bs ++ [lrc bs])) = true := by
  refine frameOk_of_frameError_none ?_ (frameError_append_lrc bs)
  have hpos := List.length_pos_iff.mpr h
  simp only [hexLine_length, List.length_append, List.length_singleton]
  omega

/-- Settles O9: the frame, stripped, is the hex text of its six bytes and their LRC. -/
theorem frameChecksumIsZero : Obligations.FrameChecksumIsZero := by
  intro fc slave a d
  constructor
  · have hsum := byteSum_append_lrc (frameBytes slave fc a d)
    simpa [byteSum, frameBytes, Nat.add_assoc] using hsum
  · rw [requestText, stripEol_frameText]
    exact frameOk_append_lrc (by simp [frameBytes])

/-! ## The words of the encode commands -/

theorem commandWord_toNat (op sym : BitVec 4) (ch : Bool) :
    (commandWord op sym ch).toNat = op.toNat + 0x010 * sym.toNat + 0x100 * ch.toNat := by
  revert op sym ch; decide

/-- R53: the word of a command, by its number. -/
theorem decode_command_iff {i : Instr} {op sym : BitVec 4} {ch : Bool} (h : encode i = .command (commandWord op sym ch))
    (w : Word) : decode (.command w) = some i ↔
      w.toNat = op.toNat + 0x010 * sym.toNat + 0x100 * ch.toNat ∧ i.wellFormed = true := by
  rw [decode_eq_some_iff, h, Code.command.injEq, ← BitVec.toNat_inj, commandWord_toNat, and_comm, eq_comm]

/-- R53: the word of a symbolic command. -/
theorem decode_symbolic_iff {i : Instr} {op sym : BitVec 4} (h : encode i = .command (commandWord op sym false))
    (hwf : i.wellFormed = symOk sym) (w : Word) :
    decode (.command w) = some i ↔ w.toNat = op.toNat + 0x010 * sym.toNat ∧ sym.toNat ≤ 12 := by
  rw [decode_command_iff h, hwf, symOk, decide_eq_true_eq]
  rfl

/-! ## The rules of the encode commands -/

/-- R69: a check that does not hold ends the command by the failure path. -/
theorem encFails_of_check {c : Prop} [Decidable c] {e : ErrCode} {s : State} {r : Result} (h : c) :
    EncFails e s (if c then .next (s.encFail e) else r) := if_pos h

/-- R71, R72: the checks stand in the rule's order. -/
theorem encodeRaw_rule (fc : Byte) (ch : Bool) (s : State) : RawEncodeRule fc ch s (encodeRaw fc ch s) := by
  refine ⟨whenNotFaulted_faulted _, fun hf => ?_⟩
  rw [encodeRaw, whenNotFaulted_clear _ hf]
  refine ⟨fun hch hl => encFails_of_check ⟨hch, hl⟩, fun hlock => ?_⟩
  rw [if_neg fun ⟨hch, hl⟩ => by simp [hlock hch] at hl]
  refine ⟨encFails_of_check, fun hslave => ?_⟩
  rw [if_neg (Nat.not_lt.mpr hslave)]
  refine ⟨encFails_of_check, fun haddr => ?_⟩
  rw [if_neg (Nat.not_lt.mpr haddr)]
  refine ⟨encFails_of_check, fun hvalue => ?_⟩
  rw [if_neg (Nat.not_lt.mpr hvalue)]
  rintro A (rfl : A = rawAddr ch s)
  refine ⟨encFails_of_check, fun hA => ?_⟩
  rw [if_neg (Nat.not_lt.mpr hA), setWidth8_eq, setWidth16_eq]
  exact emit_emits _ _ _ _ s

/-- Settles O11, by the rule of the raw commands. -/
theorem encReadFollowsItsRule : Obligations.EncReadFollowsItsRule := by
  refine ⟨fun w ch => ?_, fun ch s _ => encodeRaw_rule 0x03 ch s⟩
  rw [decode_command_iff (encode_encRead ch)]
  exact and_iff_left rfl

/-- Settles O12, by the rule of the raw commands. -/
theorem encWriteFollowsItsRule : Obligations.EncWriteFollowsItsRule := by
  refine ⟨fun w ch => ?_, fun ch s _ => encodeRaw_rule 0x06 ch s⟩
  rw [decode_command_iff (encode_encWrite ch)]
  exact and_iff_left rfl

/-- R73, R74: what the symbolic encode commands do, by R85's table; `limit` says whether the DDDD field D is checked. -/
def encodeSym (fc : Byte) (sym : Nat) (limit : Bool) (D : Nat) (s : State) : Result :=
  whenNotFaulted s <|
    if mapScoped sym = true ∧ s.lock = false then .next (s.encFail .contract)
    else if s.slave.toNat > Config.slaveMax then .next (s.encFail .rangeSlave)
    else if limit = true ∧ D > Config.valueMax then .next (s.encFail .rangeValue)
    else if mapAddr sym s.spsel s.chan.toNat > Config.addrMax then .next (s.encFail .rangeOffset)
    else
      .next (s.emit fc (BitVec.ofNat 8 s.slave.toNat) (BitVec.ofNat 16 (mapAddr sym s.spsel s.chan.toNat))
        (BitVec.ofNat 16 D))

theorem execEncReadSym_eq {sym : BitVec 4} (h : sym.toNat ≤ 12) (s : State) :
    execEncReadSym sym s = encodeSym 0x03 sym.toNat false (mapLen sym.toNat) s := by
  simp only [execEncReadSym, symtab_some s.spsel h, mapAddr_eq, setWidth8_eq, encodeSym, Bool.false_eq_true, false_and,
    if_false]

theorem execEncWriteSym_eq {sym : BitVec 4} (h : sym.toNat ≤ 12) (s : State) :
    execEncWriteSym sym s = encodeSym 0x06 sym.toNat true s.value.toNat s := by
  simp only [execEncWriteSym, symtab_some s.spsel h, mapAddr_eq, setWidth8_eq, setWidth16_eq, encodeSym, true_and]

theorem encodeSym_rule (fc : Byte) (sym : Nat) (limit : Bool) (D : Nat) (s : State) :
    SymEncodeRule fc sym limit D s (encodeSym fc sym limit D s) := by
  refine ⟨whenNotFaulted_faulted _, fun hf => ?_⟩
  rw [encodeSym, whenNotFaulted_clear _ hf]
  refine ⟨fun hscoped hl => encFails_of_check ⟨hscoped, hl⟩, fun hlock => ?_⟩
  rw [if_neg fun ⟨hscoped, hl⟩ => by simp [hlock hscoped] at hl]
  refine ⟨encFails_of_check, fun hslave => ?_⟩
  rw [if_neg (Nat.not_lt.mpr hslave)]
  refine ⟨fun hlimit hD => encFails_of_check ⟨hlimit, hD⟩, fun hD => ?_⟩
  rw [if_neg fun ⟨hlimit, hlt⟩ => Nat.not_lt.mpr (hD hlimit) hlt]
  rintro A rfl
  refine ⟨encFails_of_check, fun hA => ?_⟩
  rw [if_neg (Nat.not_lt.mpr hA)]
  exact emit_emits _ _ _ _ s

/-- Settles O13, by the rule of the symbolic commands. -/
theorem encReadSymFollowsItsRule : Obligations.EncReadSymFollowsItsRule := by
  refine ⟨fun w sym => decode_symbolic_iff (encode_encReadSym sym) rfl w, fun sym s _ hsym => ?_⟩
  rw [exec, execEncReadSym_eq hsym]
  exact encodeSym_rule 0x03 sym.toNat false (mapLen sym.toNat) s

/-- Settles O14, by the rule of the symbolic commands. -/
theorem encWriteSymFollowsItsRule : Obligations.EncWriteSymFollowsItsRule := by
  refine ⟨fun w sym => decode_symbolic_iff (encode_encWriteSym sym) rfl w, fun sym s _ hsym => ?_⟩
  rw [exec, execEncWriteSym_eq hsym]
  exact encodeSym_rule 0x06 sym.toNat true s.value.toNat s

/-! ## The frame of the encode commands -/

/-- R68, R69: what an encode command may change between the states s and t. -/
structure EncodeFrame (s t : State) : Prop where
  fields : t = { s with err := t.err, fault := t.fault, txLen := t.txLen, txLrc := t.txLrc, mem := t.mem }
  outside : Memory.sameOutside txbufBase 17 s.mem t.mem
  on_error : t.err ≠ .ok → t.txLrc = s.txLrc ∧ ∀ x, Memory.read t.mem x = Memory.read s.mem x

/-- A command that reports an error stores no byte and leaves TX_LRC alone. -/
theorem report_encodeFrame (s : State) (e : ErrCode) (fault : Bool) (txLen : Word) :
    EncodeFrame s { s with err := e, fault := fault, txLen := txLen } :=
  ⟨rfl, fun _ _ => rfl, fun _ => ⟨rfl, fun _ => rfl⟩⟩

/-- An encode command is a command that neither resets nor reads the line. -/
theorem isEncode_kind {i : Instr} (hi : isEncode i = true) :
    isCommand i = true ∧ i ≠ .softReset ∧ readsLine i = false := by
  cases i with
  | encRead _ | encWrite _ | encReadSym _ | encWriteSym _ => exact ⟨rfl, nofun, rfl⟩
  | _ => cases hi

theorem failed_encodeFrame {i : Instr} (hi : isEncode i = true) (e : ErrCode) (s : State) :
    EncodeFrame s (failed i e s) := by
  obtain ⟨_, _, hline⟩ := isEncode_kind hi
  rw [failed, hline]
  split
  · exact report_encodeFrame s e _ 0
  · exact report_encodeFrame s e _ s.txLen

/-- R71 to R74: an encode command succeeds by emitting a frame. -/
theorem Succeeds.emits {i : Instr} {s t : State} (hi : isEncode i = true) (h : Succeeds i s t) :
    ∃ fc slave a d, t = s.emit fc slave a d := by
  cases i with
  | encRead ch | encWrite ch =>
    obtain ⟨slave, d, e⟩ := h
    exact ⟨_, slave, _, d, e⟩
  | encReadSym sym | encWriteSym sym =>
    obtain ⟨slave, a, d, e⟩ := h
    exact ⟨_, slave, a, d, e⟩
  | _ => cases hi

theorem emit_encodeFrame (fc slave : Byte) (a d : Half) (s : State) : EncodeFrame s (s.emit fc slave a d) where
  fields := rfl
  outside _ hx := Memory.read_writeBytes_outside (by rw [requestText_length]; exact hx)
  on_error h := absurd rfl h

theorem exec_encodeFrame {i : Instr} {s t : State} (hi : isEncode i = true) (h : exec i s = .next t) :
    EncodeFrame s t := by
  obtain ⟨hcommand, hreset, _⟩ := isEncode_kind hi
  rcases exec_command_cases hcommand hreset h with ⟨_, rfl⟩ | ⟨_, e, _, _, _, rfl⟩ | ⟨_, hs⟩
  · exact report_encodeFrame s _ s.fault s.txLen
  · exact failed_encodeFrame hi e s
  · obtain ⟨fc, slave, a, d, rfl⟩ := hs.emits hi
    exact emit_encodeFrame fc slave a d s

/-- Settles O37, by the three ways a command can end: refused, failed, or successful. -/
theorem encodeCommandsFrame : Obligations.EncodeCommandsFrame := by
  intro i s t hi h
  obtain ⟨fields, outside, on_error⟩ := exec_encodeFrame hi h
  exact ⟨fields, outside, on_error⟩

/-! ## The round trip of an echoed write frame -/

/-- R80: a line that passes every check is good, whatever LRCEN says. -/
theorem lineVerdict_of_frameError_none {L : List Byte} {p : Nat} (hlen : 11 ≤ L.length) (hp : parse4 L 7 = some p)
    (h : frameError L = none) (lrcen : Bool) : lineVerdict lrcen L = .good p := by
  rw [lineVerdict, if_neg (by omega), if_neg (by simp only [Config.payloadOffset, Config.payloadLen]; omega), hp, h]
  exact ite_self _

theorem parse4_of_parse2 {L : List Byte} {i h l : Nat} (hh : parse2 L i = some h) (hl : parse2 L (i + 2) = some l) :
    parse4 L i = some (256 * h + l) := by
  simp only [parse4, hh, hl]

section
variable (slave fc : Byte) (a d : Half) (e : Byte)

/-- R80: the address echo of a request frame is its address field. -/
theorem echoField_frame : echoField (hexLine (frameBytes slave fc a d ++ [e])) = some a.toNat := by
  rw [← hiByte_loByte_toNat a]
  exact parse4_of_parse2 (parse2_hexLine _ 2) (parse2_hexLine _ 3)

/-- R80: the data of a request frame is its DDDD field. -/
theorem dataField_frame : dataField (hexLine (frameBytes slave fc a d ++ [e])) = some d.toNat := by
  rw [dataField, if_pos (by simp [hexLine_length, frameBytes]), ← hiByte_loByte_toNat d]
  exact parse4_of_parse2 (parse2_hexLine _ 4) (parse2_hexLine _ 5)

/-- R80, D14: the payload of a request frame straddles its fields: the low address byte and the high data byte. -/
theorem payload_frame :
    parse4 (hexLine (frameBytes slave fc a d ++ [e])) 7 = some ((a.toNat % 256) * 256 + d.toNat / 256) := by
  rw [← loByte_toNat, ← hiByte_toNat, Nat.mul_comm]
  exact parse4_of_parse2 (parse2_hexLine _ 3) (parse2_hexLine _ 4)

end

/-- R81: DECODE of a request frame that fills the line stores the frame's fields, whatever LRCEN says. -/
theorem execDecode_request {s : State} {fc slave : Byte} {a d : Half} (hf : s.fault = false) (hmax : s.rxMaxValid)
    (hlen : s.rxLen = 17) (hread : Memory.readBytes s.mem rxbufBase 17 = some (requestText fc slave a d)) :
    execDecode s = .next (s.rxGood (hexLine (frameBytes slave fc a d ++ [lrc (frameBytes slave fc a d)]))
      ((a.toNat % 256) * 256 + d.toNat / 256)) := by
  have h17 : s.rxLen.toNat = 17 := by rw [hlen]; rfl
  have hfit : 17 ≤ s.rxMax := Nat.le_trans (by decide) hmax
  have hline : rxLine s = .line (hexLine (frameBytes slave fc a d ++ [lrc (frameBytes slave fc a d)])) := by
    rw [rxLine, h17, if_neg (by omega), hread, requestText, ← stripEol_frameText]
  have hgood := lineVerdict_of_frameError_none (by simp [hexLine_length, frameBytes]) (payload_frame slave fc a d _)
    (frameError_append_lrc _) s.lrcen
  rw [execDecode, decodeThen, whenNotFaulted_clear _ hf, hline]
  simp only [hgood]

/-- S9: a write frame that is emitted, received as the wire frame (log 6) and decoded gives back its address A and its
value V. -/
theorem EmitsFrame.echo_roundTrip {slave : Byte} {a d : Half} {s : State} {r : Result} {A V : Nat}
    (h : EmitsFrame 0x06 slave a d s r) (hmax : s.rxMaxValid) (hf : s.fault = false) (hA : a.toNat = A)
    (hV : d.toNat = V) :
    ∃ t u v, r = .next t ∧ exec (.fc06WriteSingle slave a d (BitVec.ofNat 8 t.txLrc.toNat)) t = .next u ∧
      Memory.readBytes u.mem rxbufBase 17 = Memory.readBytes t.mem txbufBase 17 ∧ u.rxLen = t.txLen ∧
      exec .decode u = .next v ∧ v.err = .ok ∧ v.lrcok = true ∧ v.ev = true ∧ v.dv = true ∧
      v.rxEcho.toNat = A ∧ v.rxData.toNat = V ∧ v.rxPayload.toNat = (A % 256) * 256 + V / 256 := by
  obtain ⟨t, hr, ht, htx, _⟩ := h
  have hlrc : BitVec.ofNat 8 t.txLrc.toNat = lrc (frameBytes slave 0x06 a d) := by
    rw [ht, ← setWidth8_eq]
    exact BitVec.setWidth_setWidth_of_le _ (by decide)
  have htmax : t.rxMaxValid := by rw [ht]; exact hmax
  obtain ⟨u, hload, hu, hrx, _⟩ := loadLine_of_length_eq_17 htmax (requestText_length 0x06 slave a d)
  have huf : u.fault = false := by rw [hu, ht]; exact hf
  have humax : u.rxMaxValid := by rw [hu]; exact htmax
  have hulen : u.rxLen = 17 := by rw [hu]
  have htlen : t.txLen = 17 := by rw [ht]
  refine ⟨t, u, _, hr, ?_, hrx.trans htx.symm, hulen.trans htlen.symm, execDecode_request huf humax hulen hrx, rfl,
    frameOk_append_lrc (by simp [frameBytes]), ?_⟩
  · rw [hlrc]
    exact hload
  · have ha := a.isLt
    have hd := d.isLt
    simp only [State.rxGood_ev, State.rxGood_dv, State.rxGood_rxEcho, State.rxGood_rxData, State.rxGood_rxPayload,
      echoField_frame, dataField_frame, Option.isSome_some, Option.map_some, Option.getD_some, BitVec.toNat_ofNat,
      hA, hV, true_and] at ha hd ⊢
    omega

/-- Settles O27: by its rule ENC_WRITE emits the frame of A and VALUE, which makes the round trip. -/
theorem echoedWriteRoundTrip : Obligations.EchoedWriteRoundTrip := by
  intro ch s A hmax _ hf hlock hslave haddr hvalue hA hA_le
  obtain ⟨_, checks⟩ := encodeRaw_rule 0x06 ch s
  obtain ⟨_, checks⟩ := checks hf
  obtain ⟨_, checks⟩ := checks hlock
  obtain ⟨_, checks⟩ := checks hslave
  obtain ⟨_, checks⟩ := checks haddr
  obtain ⟨_, emits⟩ := checks hvalue A hA
  exact (emits hA_le).echo_roundTrip hmax hf (Nat.mod_eq_of_lt (Nat.lt_succ_of_le hA_le))
    (Nat.mod_eq_of_lt (Nat.lt_succ_of_le hvalue))

/-- Settles O56: by its rule ENC_WRITE_SYM emits the frame of the symbol's address and VALUE, which makes the round trip. -/
theorem echoedSymbolWriteRoundTrip : Obligations.EchoedSymbolWriteRoundTrip := by
  intro sym s A hmax _ hsym hf hlock hslave hvalue hA hA_le
  rw [exec, execEncWriteSym_eq hsym]
  obtain ⟨_, checks⟩ := encodeSym_rule 0x06 sym.toNat true s.value.toNat s
  obtain ⟨_, checks⟩ := checks hf
  obtain ⟨_, checks⟩ := checks hlock
  obtain ⟨_, checks⟩ := checks hslave
  obtain ⟨_, emits⟩ := checks (fun _ => hvalue) A hA
  exact (emits hA_le).echo_roundTrip hmax hf (Nat.mod_eq_of_lt (Nat.lt_succ_of_le hA_le))
    (Nat.mod_eq_of_lt (Nat.lt_succ_of_le hvalue))

end Sys2Proof.Machine
end

section
/-! PROOFS of the statements of 41_frame_decode.md: the hex digits (O7), the received line (O19), the decode commands
(O20 to O22), LRC_CHECK (O23, O28), and the frame of the commands that read the line (O38). -/

namespace Sys2Proof.Machine

/-- Settles O7, by the three ranges of `hexVal`; outside them no value is possible. -/
theorem hexDigitValues : Obligations.HexDigitValues := by
  intro c v
  unfold hexVal
  split
  · rw [Option.some.injEq]; omega
  · split
    · rw [Option.some.injEq]; omega
    · split
      · rw [Option.some.injEq]; omega
      · exact iff_of_false nofun (by omega)

/-! ## The received line -/

theorem rxLine_overlong {s : State} (h : s.rxMax < s.rxLen.toNat) : rxLine s = .overlong := if_pos h

theorem rxLine_of_readBytes {s : State} {B : List Byte} (hlen : s.rxLen.toNat ≤ s.rxMax)
    (hB : Memory.readBytes s.mem rxbufBase s.rxLen.toNat = some B) : rxLine s = .line (stripEol B) := by
  rw [rxLine, if_neg (Nat.not_lt.mpr hlen), hB]

theorem isEol_iff {c : Byte} : isEol c = true ↔ c = 0x0D ∨ c = 0x0A := by
  simp [isEol]

/-- R78: stripping takes CR and LF characters away from the end, and stops at the last other character. -/
theorem stripEol_split (B : List Byte) :
    ∃ trailer, B = stripEol B ++ trailer ∧ (∀ c ∈ trailer, isEol c = true) ∧
      ∀ c, (stripEol B).getLast? = some c → ¬isEol c = true := by
  refine ⟨(B.reverse.takeWhile isEol).reverse, ?_, fun c hc => ?_, fun c hc => ?_⟩
  · rw [stripEol, ← List.reverse_append, List.takeWhile_append_dropWhile, List.reverse_reverse]
  · exact List.all_eq_true.mp List.all_takeWhile c (List.mem_reverse.mp hc)
  · rw [stripEol, List.getLast?_reverse] at hc
    have hstop := List.head?_dropWhile_not isEol B.reverse
    rw [hc] at hstop
    exact Bool.eq_false_iff.mp hstop

/-- Settles O19: the line is B without its trailer, and n is the length of what is left. -/
theorem receivedLineIsStripped : Obligations.ReceivedLineIsStripped := by
  refine fun s => ⟨rxLine_overlong, fun hlen B hB => ?_⟩
  obtain ⟨trailer, hsplit, heol, hlast⟩ := stripEol_split B
  rw [rxLine_of_readBytes hlen hB]
  generalize stripEol B = L at hsplit hlast
  subst hsplit
  refine ⟨L.length, by simp, by rw [List.take_left], fun k c hk hc => ?_, fun c hpos hc => ?_⟩
  · rw [List.getElem?_append_right hk] at hc
    exact isEol_iff.mp (heol c (List.mem_of_getElem? hc))
  · rw [List.getElem?_append_left (by omega), ← List.getLast?_eq_getElem?] at hc
    exact not_or.mp (mt isEol_iff.mpr (hlast c hc))

/-! ## The checks of a line, in their order -/

theorem all_isHex_iff {L : List Byte} : L.all isHex = true ↔ ∀ c ∈ L, hexVal c ≠ none := by
  simp [isHex, Option.isSome_iff_ne_none]

/-- R80, R84: a command that fails with the first failing check of the frame obeys the rule of the frame checks. -/
theorem frameChecks_of_frameError {L : List Byte} {s : State} {r : Result}
    (fails : ∀ e, frameError L = some e → RxFails e s r) : FrameChecks L s r := by
  refine ⟨fun hsof => fails _ (if_pos hsof), fun hsof => ⟨fun hodd => fails _ ?_, fun heven =>
    ⟨fun ⟨c, hc, hnone⟩ => fails _ ?_, fun hhex hsum => fails _ ?_⟩⟩⟩
  · rw [frameError, if_neg (not_not_intro hsof), if_pos hodd]
  · have hall : L.tail.all isHex = false := Bool.eq_false_iff.mpr fun hall => all_isHex_iff.mp hall c hc hnone
    rw [frameError, if_neg (not_not_intro hsof), if_neg (not_not_intro heven), if_pos hall]
  · have hall : L.tail.all isHex = true := all_isHex_iff.mpr hhex
    rw [frameError, if_neg (not_not_intro hsof), if_neg (not_not_intro heven), if_neg (by simp [hall]), if_pos hsum]

theorem length_of_frameOk {L : List Byte} (h : frameOk L = true) : 3 ≤ L.length := by
  simp only [frameOk, Bool.and_eq_true, decide_eq_true_eq] at h
  omega

theorem frameError_of_frameOk {L : List Byte} (h : frameOk L = true) : frameError L = none := by
  simp only [frameOk, Bool.and_eq_true, beq_iff_eq] at h
  obtain ⟨⟨⟨⟨_, hsof⟩, heven⟩, hall⟩, hsum⟩ := h
  simp [frameError, hsof, heven, hall, hsum]

section
variable {b : Bool} {L : List Byte} {p : Nat}

theorem lineVerdict_empty (h : L.length = 0) : lineVerdict b L = .bad .empty := if_pos h

/-- R80: a line of 11 characters reaches the end of its payload. -/
theorem payload_fits (h : 11 ≤ L.length) : ¬L.length < Config.payloadOffset + Config.payloadLen := Nat.not_lt.mpr h

theorem lineVerdict_short (hpos : 1 ≤ L.length) (h : L.length < 11) : lineVerdict b L = .bad .short := by
  rw [lineVerdict, if_neg (by omega)]
  exact if_pos h

theorem lineVerdict_nonHex (hlen : 11 ≤ L.length) (h : parse4 L 7 = none) : lineVerdict b L = .bad .nonHex := by
  rw [lineVerdict, if_neg (by omega), if_neg (payload_fits hlen), h]

theorem lineVerdict_frameError {e : ErrCode} (hlen : 11 ≤ L.length) (hp : parse4 L 7 = some p)
    (h : frameError L = some e) : lineVerdict true L = .bad e := by
  rw [lineVerdict, if_neg (by omega), if_neg (payload_fits hlen), hp, h]
  rfl

/-- R27, R80: with LRCEN = 0 the payload decides alone. -/
theorem lineVerdict_lenient (hlen : 11 ≤ L.length) (hp : parse4 L 7 = some p) : lineVerdict false L = .good p := by
  rw [lineVerdict, if_neg (by omega), if_neg (payload_fits hlen), hp]
  rfl

theorem lineVerdict_of_frameOk (hlen : 11 ≤ L.length) (hp : parse4 L 7 = some p) (h : b = true → frameOk L = true) :
    lineVerdict b L = .good p := by
  cases b with
  | false => exact lineVerdict_lenient hlen hp
  | true => exact lineVerdict_of_frameError_none hlen hp (frameError_of_frameOk (h rfl)) true

end

/-! ## The decode commands -/

/-- R53: the only word of a command that takes no operand. -/
theorem decode_plain_iff {i : Instr} {v : Word} (h : encode i = .command v) (hwf : i.wellFormed = true) (w : Word) :
    decode (.command w) = some i ↔ w = v := by
  rw [decode_eq_some_iff, h, Code.command.injEq, and_iff_right hwf, eq_comm]

/-- R80: the machine's writes of a successful decode_line are those of the rule: a field that is not hex keeps its value. -/
theorem rxGood_eq_decoded (s : State) (L : List Byte) (p : Nat) : s.rxGood L p = s.decoded L p := by
  unfold State.rxGood State.decoded echoField dataField
  by_cases h13 : 13 ≤ L.length <;> cases parse4 L 5 <;> cases parse4 L 9 <;> simp [h13]

section
variable {post : Nat → State → State} {s : State} {L : List Byte}

theorem decodeThen_overlong (hf : s.fault = false) (h : s.rxMax < s.rxLen.toNat) :
    decodeThen post s = .next (s.rxFail .overlong) := by
  rw [decodeThen, whenNotFaulted_clear _ hf, rxLine_overlong h]

theorem decodeThen_bad {e : ErrCode} (hf : s.fault = false) (hl : rxLine s = .line L)
    (hv : lineVerdict s.lrcen L = .bad e) : decodeThen post s = .next (s.rxFail e) := by
  rw [decodeThen, whenNotFaulted_clear _ hf, hl]
  simp only [hv]

theorem decodeThen_good {p : Nat} (hf : s.fault = false) (hl : rxLine s = .line L)
    (hv : lineVerdict s.lrcen L = .good p) : decodeThen post s = .next (post p (s.decoded L p)) := by
  rw [decodeThen, whenNotFaulted_clear _ hf, hl, ← rxGood_eq_decoded]
  simp only [hv]

end

/-- R80: the checks of decode_line stand in the rule's order; what follows is asked for 16-bit payloads only (R77). -/
theorem decodeThen_rule {post : Nat → State → State} {good : List Byte → Nat → State → Prop} {s : State}
    (hgood : ∀ L p, p < 65536 → good L p (post p (s.decoded L p))) : DecodeLineRule good s (decodeThen post s) := by
  refine ⟨whenNotFaulted_faulted _, fun hf => ⟨decodeThen_overlong hf, ?_⟩⟩
  rintro hlen B hB L rfl
  have hline := rxLine_of_readBytes hlen hB
  have fails {e : ErrCode} (hv : lineVerdict s.lrcen (stripEol B) = .bad e) : RxFails e s (decodeThen post s) :=
    decodeThen_bad hf hline hv
  refine ⟨fun h => fails (lineVerdict_empty h), fun hpos h => fails (lineVerdict_short hpos h),
    fun h11 h => fails (lineVerdict_nonHex h11 h), fun p h11 hp => ⟨fun hb => ?_, fun hok => ?_⟩⟩
  · exact frameChecks_of_frameError fun e he => fails (hb ▸ lineVerdict_frameError h11 hp he)
  · exact ⟨_, decodeThen_good hf hline (lineVerdict_of_frameOk h11 hp hok), hgood _ p (parse4_lt hp)⟩

/-- Settles O20: DECODE does nothing more with the payload. -/
theorem decodeFollowsItsRule : Obligations.DecodeFollowsItsRule :=
  ⟨decode_plain_iff rfl rfl, fun _ => decodeThen_rule (post := fun _ t => t) fun _ _ _ => rfl⟩

theorem ofCode_undefined {p : Nat} (h : 3 ≤ p) : ProcState.ofCode p = .undefined := by
  rw [ProcState.ofCode, if_neg (by omega), if_neg (by omega), if_neg (by omega)]

/-- Settles O22: the payload is classified by R83. -/
theorem decodePstateFollowsItsRule : Obligations.DecodePstateFollowsItsRule := by
  refine ⟨decode_plain_iff rfl rfl, fun s => decodeThen_rule fun L p _ => ⟨ProcState.ofCode p, rfl, ?_, ?_, ?_,
    ofCode_undefined⟩⟩ <;> rintro rfl <;> rfl

/-! ## The decimal text of a temperature -/

theorem digitChar_eq_decChar {d : Nat} (h : d < 10) : BitVec.ofNat 8 (Nat.digitChar d).toNat = decChar d := by
  have all : ∀ k : Fin 10, BitVec.ofNat 8 (Nat.digitChar k.val).toNat = decChar k.val := by decide
  exact all ⟨d, h⟩

theorem decimalText_digit {k : Nat} (h : k < 10) : decimalText k = [decChar k] := by
  rw [decimalText, Nat.toDigits_of_lt_base h, List.map_singleton, digitChar_eq_decChar h]

theorem decimalText_of_ten_le {k : Nat} (h : 10 ≤ k) : decimalText k = decimalText (k / 10) ++ [decChar (k % 10)] := by
  rw [decimalText, Nat.toDigits_of_base_le (by decide) h, List.map_append, List.map_singleton,
    digitChar_eq_decChar (Nat.mod_lt k (by decide))]
  rfl

/-- R82: with fuel for all its digits, a number's text is the library's. -/
theorem decAux_eq_decimalText {f k : Nat} (h : k < 10 ^ f) (hf : 0 < f) : decAux f k = decimalText k := by
  induction f generalizing k with
  | zero => cases hf
  | succ f ih =>
    unfold decAux
    split
    · rename_i hk
      exact (decimalText_digit hk).symm
    · rename_i hk
      have hf : 0 < f := Nat.pos_of_ne_zero (by rintro rfl; omega)
      rw [decimalText_of_ten_le (by omega), ih (by rw [Nat.pow_succ] at h; omega) hf]

theorem tempText_eq {p : Nat} (h : p < 65536) :
    tempText p = decimalText (p / 10) ++ [0x2E] ++ decimalText (p % 10) := by
  rw [tempText, dec, dec, decAux_eq_decimalText (by omega) (by decide), decAux_eq_decimalText (by omega) (by decide)]

/-- R82: the text of a 16-bit payload has one to four digits, the point, and one digit. -/
theorem tempText_length {p : Nat} (h : p < 65536) : 3 ≤ (tempText p).length ∧ (tempText p).length ≤ 6 := by
  have hpos : 0 < (decimalText (p / 10)).length := by
    rw [decimalText, List.length_map]
    exact Nat.length_toDigits_pos
  have hle : (decimalText (p / 10)).length ≤ 4 := by
    rw [decimalText, List.length_map]
    exact (Nat.length_toDigits_le_iff (by decide) (by decide)).mpr (by omega)
  rw [tempText_eq h, decimalText_digit (Nat.mod_lt p (by decide))]
  simp only [List.length_append, List.length_singleton]
  omega

/-- Settles O21: the text that is stored is that of the library's digits, and it stands in DECSTR. -/
theorem decodeTempFollowsItsRule : Obligations.DecodeTempFollowsItsRule := by
  refine ⟨decode_plain_iff rfl rfl, fun s => decodeThen_rule fun L p hp => ?_⟩
  obtain ⟨hmin, hmax⟩ := tempText_length hp
  exact ⟨tempText p, tempText_eq hp, hmin, hmax, rfl, Memory.readBytes_writeBytes _ _ _,
    fun _ => Memory.read_writeBytes_outside⟩

/-! ## LRC_CHECK -/

section
variable {L : List Byte}

theorem lrcVerdict_empty (h : L.length = 0) : lrcVerdict L = some .empty := if_pos h

theorem lrcVerdict_short (hpos : 1 ≤ L.length) (h : L.length < 3) : lrcVerdict L = some .short := by
  rw [lrcVerdict, if_neg (by omega), if_pos h]

theorem lrcVerdict_of_length (h : 3 ≤ L.length) : lrcVerdict L = frameError L := by
  rw [lrcVerdict, if_neg (by omega), if_neg (by omega)]

/-- R79, R84: the validator of LRC_CHECK is frame_ok. -/
theorem lrcVerdict_eq_none_iff : lrcVerdict L = none ↔ frameOk L = true := by
  constructor
  · intro h
    have h3 : 3 ≤ L.length := by
      unfold lrcVerdict at h
      repeat' split at h
      · cases h
      · cases h
      · omega
    exact frameOk_of_frameError_none h3 (lrcVerdict_of_length h3 ▸ h)
  · exact fun h => (lrcVerdict_of_length (length_of_frameOk h)).trans (frameError_of_frameOk h)

end

section
variable {s : State} {L : List Byte}

theorem execLrcCheck_overlong (hf : s.fault = false) (h : s.rxMax < s.rxLen.toNat) :
    execLrcCheck s = .next (s.rxFail .overlong) := by
  rw [execLrcCheck, whenNotFaulted_clear _ hf, rxLine_overlong h]

theorem execLrcCheck_bad {e : ErrCode} (hf : s.fault = false) (hl : rxLine s = .line L)
    (hv : lrcVerdict L = some e) : execLrcCheck s = .next (s.rxFail e) := by
  rw [execLrcCheck, whenNotFaulted_clear _ hf, hl]
  simp only [hv]

theorem execLrcCheck_good (hf : s.fault = false) (hl : rxLine s = .line L) (hv : lrcVerdict L = none) :
    execLrcCheck s = .next { s with lrcok := true, err := .ok } := by
  rw [execLrcCheck, whenNotFaulted_clear _ hf, hl]
  simp only [hv]

end

theorem execLrcCheck_rule (s : State) : LrcCheckRule s (execLrcCheck s) := by
  refine ⟨whenNotFaulted_faulted _, fun hf => ⟨execLrcCheck_overlong hf, ?_⟩⟩
  rintro hlen B hB L rfl
  have hline := rxLine_of_readBytes hlen hB
  have fails {e : ErrCode} (hv : lrcVerdict (stripEol B) = some e) : RxFails e s (execLrcCheck s) :=
    execLrcCheck_bad hf hline hv
  exact ⟨fun h => fails (lrcVerdict_empty h), fun hpos h => fails (lrcVerdict_short hpos h),
    fun h3 => frameChecks_of_frameError fun e he => fails ((lrcVerdict_of_length h3).trans he),
    fun hok => execLrcCheck_good hf hline (lrcVerdict_eq_none_iff.mpr hok)⟩

/-- R84: LRC_CHECK reports success exactly on a line that frame_ok accepts. -/
theorem execLrcCheck_ok_iff {s t : State} {L : List Byte} (hf : s.fault = false) (hl : rxLine s = .line L)
    (h : execLrcCheck s = .next t) : t.err = .ok ↔ frameOk L = true := by
  rw [← lrcVerdict_eq_none_iff]
  cases hv : lrcVerdict L with
  | none =>
    cases (execLrcCheck_good hf hl hv).symm.trans h
    exact iff_of_true rfl rfl
  | some e =>
    cases (execLrcCheck_bad hf hl hv).symm.trans h
    have hne : e ≠ .ok := by rintro rfl; simpa using lrcVerdict_codes hv
    exact iff_of_false hne nofun

/-- Settles O23, by the rule of LRC_CHECK and the validator it runs. -/
theorem lrcCheckFollowsItsRule : Obligations.LrcCheckFollowsItsRule :=
  ⟨decode_plain_iff rfl rfl, execLrcCheck_rule,
    fun _ _ _ hf hlen hB => execLrcCheck_ok_iff hf (rxLine_of_readBytes hlen hB)⟩

/-! ## The checksum of a received request frame -/

/-- R66, R67: bytes and one more sum to 0 modulo 256 only when it is their LRC. -/
theorem byteSum_append_singleton_iff (bs : List Byte) (e : Byte) : byteSum (bs ++ [e]) % 256 = 0 ↔ e = lrc bs := by
  have hsingle : byteSum [e] = e.toNat := by simp [byteSum]
  have hlt := e.isLt
  rw [byteSum_append, hsingle, ← BitVec.toNat_inj, lrc_toNat]
  omega

/-- R84: LRC_CHECK of a stripped line that is a request frame, whatever its checksum. -/
theorem execLrcCheck_frame {s : State} {slave fc : Byte} {a d : Half} {e : Byte} (hf : s.fault = false)
    (hl : rxLine s = .line (stripEol (frameText slave fc a d e))) :
    execLrcCheck s = .next (if e = lrc (frameBytes slave fc a d)
      then { s with lrcok := true, err := .ok } else { s with lrcok := false, err := .lrc }) := by
  have hv : lrcVerdict (stripEol (frameText slave fc a d e)) =
      if e = lrc (frameBytes slave fc a d) then none else some .lrc := by
    rw [stripEol_frameText, lrcVerdict_of_length (by simp [hexLine_length, frameBytes]), frameError_hexLine]
    simp only [byteSum_append_singleton_iff]
  split
  · rename_i he
    exact execLrcCheck_good hf hl (hv.trans (if_pos he))
  · rename_i he
    exact execLrcCheck_bad hf hl (hv.trans (if_neg he))

/-- Log 6, R84: a request frame is loaded as a line, and LRC_CHECK then reads its text. -/
theorem loadLine_frame_lrcCheck {s : State} (slave fc : Byte) (a d : Half) (e : Byte) (hmax : s.rxMaxValid)
    (hf : s.fault = false) : ∃ t, loadLine (frameText slave fc a d e) s = .next t ∧
      execLrcCheck t = .next (if e = lrc (frameBytes slave fc a d)
        then { t with lrcok := true, err := .ok } else { t with lrcok := false, err := .lrc }) := by
  obtain ⟨t, hload, ht, hread, _⟩ := loadLine_of_length_eq_17 hmax (frameText_length slave fc a d e)
  have htf : t.fault = false := by rw [ht]; exact hf
  have hlen : t.rxLen.toNat = 17 := by rw [ht]; rfl
  have hfit : t.rxLen.toNat ≤ t.rxMax := by
    rw [hlen, loadLine_rxMax hload]
    exact Nat.le_trans (by decide) hmax
  exact ⟨t, hload, execLrcCheck_frame htf (rxLine_of_readBytes hfit (hlen ▸ hread))⟩

/-- Settles O28, both wire frames being request frames that are loaded. -/
theorem wireFramesValidateByChecksum : Obligations.WireFramesValidateByChecksum :=
  fun _ slave a d e hmax hf =>
    ⟨loadLine_frame_lrcCheck slave 0x03 a d e hmax hf, loadLine_frame_lrcCheck slave 0x06 a d e hmax hf⟩

/-! ## The frame of the commands that read the line -/

/-- A command that reads the line neither resets nor encodes. -/
theorem readsLine_kind {i : Instr} (hi : readsLine i = true) :
    isCommand i = true ∧ i ≠ .softReset ∧ isEncode i = false := by
  cases i with
  | decode | decodeTemp | decodePstate | lrcCheck => exact ⟨rfl, nofun, rfl⟩
  | _ => cases hi

/-- A command that reads the line reports an error in ERR and LRCOK alone, or succeeds. -/
theorem exec_readsLine_cases {i : Instr} {s t : State} (h : exec i s = .next t) (hi : readsLine i = true) :
    (∃ e lrcok, t = { s with err := e, lrcok := lrcok }) ∨ Succeeds i s t := by
  obtain ⟨hcommand, hreset, he⟩ := readsLine_kind hi
  rcases exec_command_cases hcommand hreset h with ⟨_, rfl⟩ | ⟨_, e, _, _, _, rfl⟩ | ⟨_, hs⟩
  · exact .inl ⟨_, s.lrcok, rfl⟩
  · exact .inl ⟨e, false, (rxFail_failed he hi).symm⟩
  · exact .inr hs

/-- Settles O38: each command ends with an error or by its success, whose only store is the text of DECODE_TEMP. -/
theorem lineCommandsFrame : Obligations.LineCommandsFrame := by
  refine fun s t => ⟨fun h => ?_, fun h => ?_, fun h => ?_, fun h => ?_⟩
  · rcases exec_readsLine_cases h rfl with ⟨_, _, rfl⟩ | ⟨_, _, _, _, rfl⟩ <;> exact ⟨rfl, fun _ => rfl⟩
  · rcases exec_readsLine_cases h rfl with ⟨_, _, rfl⟩ | ⟨_, _, _, _, rfl⟩ <;> exact ⟨rfl, fun _ => rfl⟩
  · rcases exec_readsLine_cases h rfl with ⟨_, _, rfl⟩ | ⟨L, p, _, _, rfl⟩
    · exact ⟨rfl, fun _ _ => rfl, fun _ _ => rfl⟩
    · have hle := tempText_length_le p
      have hlen : ((s.rxGood L p).storeTemp p).decLen.toNat = (tempText p).length := Nat.mod_eq_of_lt (by omega)
      exact ⟨rfl, fun x hx => Memory.read_writeBytes_outside (hlen ▸ hx), fun hne => absurd rfl hne⟩
  · rcases exec_readsLine_cases h rfl with ⟨_, _, rfl⟩ | ⟨_, _, _, rfl⟩ <;> exact ⟨rfl, fun _ => rfl⟩

end Sys2Proof.Machine
end

section
/-! PROOFS of the statements of 42_register_map.md: the invariant of every step (O48), RESOLVE (O15), the channel offset
(O16), BIND_CHAN (O17), and commands on an unbound channel (O33). -/

namespace Sys2Proof.Machine

/-! ## Raising an error -/

/-- R105: the contract violation sets FAULT. -/
theorem raise_contract (s : State) : s.raise .contract = { s with err := .contract, fault := true } := by
  simp [State.raise]

/-- R104: every other error changes ERR alone. -/
theorem raise_of_ne_contract {e : ErrCode} (s : State) (he : e ≠ .contract) : s.raise e = s.setErr e := by
  simp [State.raise, State.setErr, he]

/-! ## The rows of the Register Map -/

/-- R85: every row of the machine's table is a row of the map. -/
theorem row_eq_of_symtab {sym : BitVec 4} {spsel : Bool} {row : SymRow} (h : symtab sym spsel = some row) :
    row = ⟨mapBase sym.toNat spsel, mapLen sym.toNat, mapScoped sym.toNat⟩ := by
  by_cases hsym : sym.toNat ≤ 12
  · rw [symtab_some spsel hsym] at h
    exact (Option.some.inj h).symm
  · rw [symtab_none spsel (Nat.lt_of_not_le hsym)] at h
    cases h

theorem mapLen_le (n : Nat) : mapLen n ≤ 4 := by
  unfold mapLen
  split <;> decide

/-- R85: every base is below the stride of a channel. -/
theorem mapBase_lt (n : Nat) (spsel : Bool) : mapBase n spsel < 0x0400 := by
  unfold mapBase
  repeat' split
  all_goals decide

/-! ## The numbers that a decoded line leaves in registers -/

/-- R77: four hex digits fit the 16 used bits of a register. -/
theorem toNat_ofNat_parse4_le {L : List Byte} {i v : Nat} (h : parse4 L i = some v) :
    (BitVec.ofNat 32 v).toNat ≤ 0xFFFF :=
  Nat.le_trans (Nat.mod_le _ _) (Nat.le_of_lt_succ (parse4_lt h))

/-- R80: the payload of a good line is read from the line. -/
theorem parse4_of_good {b : Bool} {L : List Byte} {p : Nat} (h : lineVerdict b L = .good p) : parse4 L 7 = some p := by
  obtain ⟨_, hp, _⟩ := lineVerdict_good h
  exact hp

/-- R80: the data field, if there is one, is read from the line. -/
theorem parse4_of_dataField {L : List Byte} {v : Nat} (h : dataField L = some v) : parse4 L 9 = some v := by
  unfold dataField at h
  split at h
  · exact h
  · cases h

/-- A register that takes a field if there is one, and else keeps its value, keeps a bound. -/
theorem toNat_getD_le {o : Option Nat} {w : Word} {n : Nat} (ho : ∀ v, o = some v → (BitVec.ofNat 32 v).toNat ≤ n)
    (hw : w.toNat ≤ n) : ((o.map (BitVec.ofNat 32)).getD w).toNat ≤ n := by
  cases o with
  | none => exact hw
  | some v => exact ho v rfl

/-! ## Writes inside the buffers -/

/-- A write to a buffer byte lists buffer bytes only. -/
theorem Memory.inBuffers_write {rxMax a : Nat} {m : List Host.Cell} (v : Byte) (ha : (bufferAt rxMax a).isSome = true)
    (h : Memory.inBuffers rxMax m = true) : Memory.inBuffers rxMax (Memory.write m a v) = true := by
  induction m with
  | nil => simpa [Memory.write, Memory.inBuffers] using ha
  | cons c rest ih =>
    simp only [Memory.inBuffers, List.all_cons, Bool.and_eq_true] at h ih
    unfold Memory.write
    split
    · simpa [Memory.inBuffers, ha] using h
    · split
      · simpa [Memory.inBuffers, ha] using h.2
      · simpa [Memory.inBuffers, h.1] using ih h.2

/-- A run of writes to buffer bytes lists buffer bytes only. -/
theorem Memory.inBuffers_writeBytes {rxMax a : Nat} {m : List Host.Cell} {bs : List Byte}
    (hbuf : ∀ i, i < bs.length → (bufferAt rxMax (a + i)).isSome = true) (h : Memory.inBuffers rxMax m = true) :
    Memory.inBuffers rxMax (Memory.writeBytes m a bs) = true := by
  induction bs generalizing m a with
  | nil => exact h
  | cons b rest ih =>
    refine ih (fun i hi => ?_) (Memory.inBuffers_write b (hbuf 0 (Nat.zero_lt_succ _)) h)
    rw [Nat.add_right_comm, Nat.add_assoc]
    exact hbuf (i + 1) (Nat.succ_lt_succ hi)

/-- R82: the text of a temperature ends below TXBUF. -/
theorem decstr_text_below_txbuf (p : Nat) : decstrBase + (tempText p).length ≤ txbufBase :=
  Nat.le_trans (Nat.add_le_add_left (tempText_length_le p) _) (by decide)

/-! ## What the held frame and the held temperature depend on -/

section
variable {s : State} {m : List Host.Cell}

/-- R33: the frame stays held while the bytes of TXBUF read as before. -/
theorem State.holdsFrame.of_mem (h : s.holdsFrame)
    (hread : ∀ x, txbufBase ≤ x → x < rxbufBase → Memory.read m x = Memory.read s.mem x) :
    ({ s with mem := m } : State).holdsFrame := by
  obtain ⟨fc, slave, a, d, hfc, htext, hlrc⟩ := h
  have apart : txbufBase + 17 ≤ rxbufBase := by decide
  have hbytes : Memory.readBytes m txbufBase 17 = Memory.readBytes s.mem txbufBase 17 :=
    Memory.readBytes_congr fun i hi => hread _ (Nat.le_add_right _ _) (by omega)
  exact ⟨fc, slave, a, d, hfc, hbytes.trans htext, hlrc⟩

/-- R31: the temperature stays held while the bytes of DECSTR read as before. -/
theorem State.holdsTemp.of_mem (h : s.holdsTemp) (hread : ∀ x, x < txbufBase → Memory.read m x = Memory.read s.mem x) :
    ({ s with mem := m } : State).holdsTemp := by
  obtain ⟨p, hp, hint, hfrac, hshort, hlen, htext⟩ := h
  have apart : decstrBase + 21 ≤ txbufBase := by decide
  have hle := tempText_length_le p
  have hbytes : Memory.readBytes m decstrBase s.decLen.toNat = Memory.readBytes s.mem decstrBase s.decLen.toNat :=
    Memory.readBytes_congr fun i hi => hread _ (by omega)
  exact ⟨p, hp, hint, hfrac, hshort, hlen, hbytes.trans htext⟩

end

/-- R68: emit leaves a whole checked frame in TXBUF. -/
theorem emit_holdsFrame {fc : Byte} (hfc : fc = 0x03 ∨ fc = 0x06) (slave : Byte) (a d : Half) (s : State) :
    (s.emit fc slave a d).holdsFrame := by
  refine ⟨fc, slave, a, d, hfc, ?_, rfl⟩
  rw [← requestText_length fc slave a d]
  exact Memory.readBytes_writeBytes _ _ _

/-- R82: the outputs of a 16-bit payload are those of one payload. -/
theorem storeTemp_holdsTemp {p : Nat} (hp : p < 65536) (s : State) : (s.storeTemp p).holdsTemp := by
  have hle := tempText_length_le p
  have hlen : (s.storeTemp p).decLen.toNat = (tempText p).length := Nat.mod_eq_of_lt (by omega)
  refine ⟨p, by omega, Nat.mod_eq_of_lt (by omega), Nat.mod_eq_of_lt (by omega), rfl, hlen, ?_⟩
  rw [hlen]
  exact Memory.readBytes_writeBytes _ _ _

/-! ## The invariant under the updates of the commands -/

section
variable {s : State} (h : s.Inv)
include h

theorem State.Inv.setErr {e : ErrCode} (he : s.fault = true ↔ e = .contract ∨ e = .faulted) : (s.setErr e).Inv :=
  { h with fault_err := he }

/-- R104, R105: an error sets FAULT exactly when it is E_CONTRACT. -/
theorem State.Inv.raise {e : ErrCode} (hf : s.fault = false) (he : e ≠ .faulted) : (s.raise e).Inv :=
  { h with fault_err := by simp [hf, he] }

theorem State.Inv.encFail {e : ErrCode} (hf : s.fault = false) (he : e ≠ .faulted) : (s.encFail e).Inv :=
  { h.raise hf he with tx_frame := .inl rfl }

theorem State.Inv.rxFail {e : ErrCode} (hf : s.fault = false) (hc : e ≠ .contract) (he : e ≠ .faulted) :
    (s.rxFail e).Inv :=
  { h with fault_err := by simp [hf, hc, he] }

theorem State.Inv.failed {i : Instr} {e : ErrCode} (hf : s.fault = false) (he : e ≠ .faulted)
    (hc : readsLine i = true → e ≠ .contract) : (failed i e s).Inv := by
  unfold Machine.failed
  split
  · exact h.encFail hf he
  · split
    · rename_i hline
      exact h.rxFail hf (hc hline) he
    · exact h.raise hf he

theorem State.Inv.illegal : (s.setErr (if s.fault then .faulted else .illegal)).Inv :=
  h.setErr (by cases s.fault <;> simp)

/-- R68: the frame stands in TXBUF, its checksum in TX_LRC, and DECSTR is as before. -/
theorem State.Inv.emit {fc : Byte} (hf : s.fault = false) (hfc : fc = 0x03 ∨ fc = 0x06) (slave : Byte) (a d : Half) :
    (s.emit fc slave a d).Inv :=
  { h with
    mem_wf := Memory.writeBytes_wf h.mem_wf _ _
    mem_in := Memory.inBuffers_writeBytes (fun i hi => by rw [bufferAt_txbuf hi]; rfl) h.mem_in
    fault_err := by simp [hf]
    tx_frame := .inr ⟨rfl, emit_holdsFrame hfc slave a d s⟩
    txLrc_le := by
      have hlt := (lrc (frameBytes slave fc a d)).isLt
      simp only [State.emit_txLrc, BitVec.toNat_setWidth]
      omega
    temp_valid := h.temp_valid.imp_right fun ht => ht.of_mem fun x hx => Memory.read_writeBytes_outside (.inl hx) }

/-- R80: PAYLOAD, RX_ECHO and RX_DATA hold four hex digits of the line, or their old values. -/
theorem State.Inv.rxGood {b : Bool} {L : List Byte} {p : Nat} (hf : s.fault = false)
    (hv : lineVerdict b L = .good p) : (s.rxGood L p).Inv :=
  { h with
    fault_err := by simp [hf]
    rxPayload_le := toNat_ofNat_parse4_le (parse4_of_good hv)
    rxEcho_le := toNat_getD_le (fun _ he => toNat_ofNat_parse4_le he) h.rxEcho_le
    rxData_le := toNat_getD_le (fun _ hd => toNat_ofNat_parse4_le (parse4_of_dataField hd)) h.rxData_le }

/-- R82: the text stays inside DECSTR, so TXBUF is as before. -/
theorem State.Inv.storeTemp {p : Nat} (hp : p < 65536) : (s.storeTemp p).Inv := by
  have hfit : (tempText p).length ≤ Config.decStrLen := Nat.le_trans (tempText_length hp).2 (by decide)
  exact { h with
    mem_wf := Memory.writeBytes_wf h.mem_wf _ _
    mem_in := Memory.inBuffers_writeBytes (fun i hi => by
      rw [bufferAt_decstr (Nat.lt_of_lt_of_le hi hfit)]; rfl) h.mem_in
    tx_frame := h.tx_frame.imp_right fun ⟨hlen, ht⟩ => ⟨hlen, ht.of_mem fun x hx _ =>
      Memory.read_writeBytes_outside (.inr (Nat.le_trans (decstr_text_below_txbuf p) hx))⟩
    temp_valid := .inr (storeTemp_holdsTemp hp s) }

/-- R91: the outputs of RESOLVE stay within their used bits. -/
theorem State.Inv.resolved {A n : Nat} (hf : s.fault = false) (hA : A ≤ Config.addrMax) (hn : n ≤ 0xFFFF)
    (chScoped : Bool) : ({ s with
      resAddr := BitVec.ofNat 32 A, resLen := BitVec.ofNat 32 n, resScoped := if chScoped then 1 else 0, err := .ok } :
        State).Inv := by
  have hbit : (if chScoped then 1 else 0 : Word).toNat ≤ 1 := by cases chScoped <;> decide
  exact { h with
    fault_err := by simp [hf]
    resAddr_le := Nat.le_trans (Nat.mod_le _ _) hA
    resLen_le := Nat.le_trans (Nat.mod_le _ _) hn
    resScoped_le := hbit }

/-- R92: BIND_CHAN locks a channel that it has checked. -/
theorem State.Inv.bound (hf : s.fault = false) (hlo : 1 ≤ s.chan.toNat) (hhi : s.chan.toNat ≤ s.chcount.toNat) :
    ({ s with lock := true, err := .ok } : State).Inv :=
  { h with
    lock_valid := fun _ => ⟨hlo, hhi⟩
    fault_err := by simp [hf] }

theorem State.Inv.resetAll : s.resetAll.Inv where
  rxMax_valid := h.rxMax_valid
  mem_wf := rfl
  mem_in := rfl
  lock_valid := nofun
  fault_err := show false = true ↔ ErrCode.ok = .contract ∨ ErrCode.ok = .faulted by decide
  tx_frame := .inl rfl
  txLrc_le := Nat.zero_le _
  resAddr_le := Nat.zero_le _
  resLen_le := Nat.zero_le _
  resScoped_le := Nat.zero_le _
  rxEcho_le := Nat.zero_le _
  rxPayload_le := Nat.zero_le _
  rxData_le := Nat.zero_le _
  temp_valid := .inl ⟨rfl, rfl, rfl, rfl⟩

end

/-! ## Every instruction keeps the invariant -/

theorem Succeeds.inv {i : Instr} {s t : State} (h : s.Inv) (hf : s.fault = false) (hs : Succeeds i s t) : t.Inv := by
  cases i with
  | nop => cases hs; exact h.setErr (by simp [hf])
  | encRead _ => obtain ⟨_, _, rfl⟩ := hs; exact h.emit hf (.inl rfl) _ _ _
  | encWrite _ => obtain ⟨_, _, rfl⟩ := hs; exact h.emit hf (.inr rfl) _ _ _
  | encReadSym _ => obtain ⟨_, _, _, rfl⟩ := hs; exact h.emit hf (.inl rfl) _ _ _
  | encWriteSym _ => obtain ⟨_, _, _, rfl⟩ := hs; exact h.emit hf (.inr rfl) _ _ _
  | resolve sym =>
    obtain ⟨row, hrow, hA, rfl⟩ := hs
    have hlen : row.len ≤ 4 := by rw [row_eq_of_symtab hrow]; exact mapLen_le _
    exact h.resolved hf hA (Nat.le_trans hlen (by decide)) row.chScoped
  | bindChan => obtain ⟨_, hlo, hhi, rfl⟩ := hs; exact h.bound hf hlo hhi
  | decode => obtain ⟨_, _, _, hv, rfl⟩ := hs; exact h.rxGood hf hv
  | decodeTemp =>
    obtain ⟨_, _, _, hv, rfl⟩ := hs
    exact (h.rxGood hf hv).storeTemp (parse4_lt (parse4_of_good hv))
  | decodePstate => obtain ⟨_, _, _, hv, rfl⟩ := hs; exact { h.rxGood hf hv with }
  | lrcCheck => obtain ⟨_, _, _, rfl⟩ := hs; exact { h with fault_err := by simp [hf] }
  | softReset => exact hs.elim
  | fc03ReadHolding _ _ _ _ | fc06WriteSingle _ _ _ _ => exact hs.elim

theorem exec_command_inv {i : Instr} {s t : State} (h : s.Inv) (hc : isCommand i = true) (hr : i ≠ .softReset)
    (he : exec i s = .next t) : t.Inv := by
  rcases exec_command_cases hc hr he with ⟨hf, rfl⟩ | ⟨hf, e, _, hne, hline, rfl⟩ | ⟨hf, hs⟩
  · exact h.setErr (by simp [hf])
  · exact h.failed hf hne fun hl => (hline hl).1
  · exact hs.inv h hf

/-! ## Every host access keeps the invariant -/

section
variable {s t : State} (h : s.Inv)
include h

/-- R41 (d): a channel is written only while LOCK = 0. -/
theorem State.Inv.writeReg (r : Reg) (v : Word) : (s.writeReg r v).Inv := by
  cases r with
  | chan | chcount =>
    simp only [State.writeReg]
    split
    · exact h
    · rename_i hl
      exact { h with lock_valid := fun hlock => absurd hlock hl }
  | _ => exact { h with }

/-- R34: a byte of RXBUF stands above TXBUF and DECSTR. -/
theorem State.Inv.storeRx {i : Nat} (hi : i < s.rxMax) (v : Byte) :
    ({ s with mem := Memory.write s.mem (rxbufBase + i) v } : State).Inv := by
  have apart : txbufBase ≤ rxbufBase := by decide
  exact { h with
    mem_wf := Memory.write_wf h.mem_wf _ _
    mem_in := Memory.inBuffers_write v (by rw [bufferAt_rxbuf hi]; rfl) h.mem_in
    tx_frame := h.tx_frame.imp_right fun ⟨hlen, ht⟩ => ⟨hlen, ht.of_mem fun x _ hx =>
      Memory.read_write_other v (by omega)⟩
    temp_valid := h.temp_valid.imp_right fun ht => ht.of_mem fun x hx =>
      Memory.read_write_other v (by omega) }

theorem busRead_inv {w : Width} {off : Nat} (hb : busRead w off s = .next t) : t.Inv := by
  rw [busRead_next hb]
  exact { h with }

theorem busWrite8_inv {off : Nat} {v : Byte} (hb : busWrite8 off v s = .next t) : t.Inv := by
  rcases busWrite8_next hb with rfl | ⟨i, hi, rfl, rfl⟩
  · exact h
  · exact h.storeRx hi v

theorem busWrite32_inv {off : Nat} {v : Word} (hb : busWrite32 off v s = .next t) : t.Inv := by
  rcases busWrite32_next hb with rfl | ⟨r, _, rfl⟩
  · exact h
  · exact h.writeReg r v

theorem storeRx_inv {text : List Byte} {i : Nat} (hb : storeRx i text s = .next t) : t.Inv := by
  induction text generalizing i s with
  | nil => cases hb; exact h
  | cons c rest ih =>
    obtain ⟨u, hu, ht⟩ := andThen_next hb
    exact ih (busWrite8_inv h hu) ht

theorem loadLine_inv {text : List Byte} (hb : loadLine text s = .next t) : t.Inv := by
  obtain ⟨u, hu, ht⟩ := andThen_next hb
  exact busWrite32_inv (storeRx_inv h hu) ht

theorem hostAccess_inv {op : HostOp} (hb : hostAccess op s = .next t) : t.Inv := by
  cases op with
  | read w off => exact busRead_inv h hb
  | write8 off v => exact busWrite8_inv h hb
  | write16 off v => cases hb
  | write32 off v => exact busWrite32_inv h hb
  | line text => exact loadLine_inv h hb
  | resetInput => cases hb; exact h.resetAll

theorem exec_inv {i : Instr} (he : exec i s = .next t) : t.Inv := by
  cases i with
  | softReset => cases he; exact h.resetAll
  | fc03ReadHolding _ _ _ _ | fc06WriteSingle _ _ _ _ => exact loadLine_inv h he
  | _ => exact exec_command_inv h rfl (by simp) he

end

/-- Settles O48, by the four things a step can do, none of which depends on the inputs that are left. -/
theorem everyStepKeepsTheInvariant : Obligations.EveryStepKeepsTheInvariant := by
  intro s t h hstep
  have hrest (rest : List HostOp) : ({ s with pending := rest } : State).Inv := { h with }
  rcases step_cases hstep with ⟨_, hr⟩ | ⟨_, rest, _, _, _, hr⟩ | ⟨_, rest, _, _, hr⟩ | ⟨_, rest, _, _, hr⟩
  · cases hr
    exact h
  · exact exec_inv (hrest rest) hr.symm
  · rw [illegalWord_next hr.symm]
    exact (hrest rest).illegal
  · exact hostAccess_inv (hrest rest) hr.symm

/-! ## RESOLVE -/

section
variable {s : State} {sym : BitVec 4}

/-- R90, R105: without a bound channel a scoped symbol is a contract violation. -/
theorem execResolve_unbound (hsym : sym.toNat ≤ 12) (hf : s.fault = false) (hscoped : mapScoped sym.toNat = true)
    (hl : s.lock = false) : execResolve sym s = .next { s with err := .contract, fault := true } := by
  rw [execResolve, symtab_some s.spsel hsym]
  simp only
  rw [whenNotFaulted_clear _ hf, if_pos ⟨hscoped, hl⟩, raise_contract]

/-- R91: with the channel bound where it is needed, the address is checked and then reported. -/
theorem execResolve_bound (hsym : sym.toNat ≤ 12) (hf : s.fault = false)
    (hlock : mapScoped sym.toNat = true → s.lock = true) : execResolve sym s =
      if 0xFFFF < mapAddr sym.toNat s.spsel s.chan.toNat then .next (s.setErr .rangeOffset)
      else .next { s with
        resAddr := BitVec.ofNat 32 (mapAddr sym.toNat s.spsel s.chan.toNat)
        resLen := BitVec.ofNat 32 (mapLen sym.toNat)
        resScoped := if mapScoped sym.toNat then 1 else 0
        err := .ok } := by
  rw [execResolve, symtab_some s.spsel hsym]
  simp only
  rw [whenNotFaulted_clear _ hf, if_neg fun ⟨hscoped, hl⟩ => by simp [hlock hscoped] at hl, mapAddr_eq,
    raise_of_ne_contract s (by decide)]

theorem execResolve_faulted (hsym : sym.toNat ≤ 12) (hf : s.fault = true) :
    execResolve sym s = .next (s.setErr .faulted) := by
  rw [execResolve, symtab_some s.spsel hsym]
  exact whenNotFaulted_faulted _ hf

end

/-- Settles O15, by the three cases of RESOLVE. -/
theorem resolveFollowsItsRule : Obligations.ResolveFollowsItsRule := by
  refine ⟨fun w sym => decode_symbolic_iff (encode_resolve sym) rfl w, ?_⟩
  rintro sym s _ _ hsym rfl
  refine ⟨execResolve_faulted hsym, fun hf => ⟨execResolve_unbound hsym hf, ?_⟩⟩
  rintro hlock _ rfl
  have hrule : exec (.resolve sym) s = _ := execResolve_bound hsym hf hlock
  exact ⟨fun hA => hrule.trans (if_pos hA), fun hA => hrule.trans (if_neg (Nat.not_lt.mpr hA))⟩

/-! ## The channel offset -/

/-- Settles O16: every base is below one channel's stride, so 64 channels fit in 16 bits and no more. -/
theorem channelOffsetProperty : Obligations.ChannelOffsetProperty := by
  intro sym spsel row hrow
  have hbase : row.base < 0x0400 := by rw [row_eq_of_symtab hrow]; exact mapBase_lt _ spsel
  have addr (hs : row.chScoped = true) (c : Nat) : resolveAddr row c = row.base + 0x0400 * (c - 1) := if_pos hs
  refine ⟨fun c _ => rfl, ite_self row.base, fun hs => ?_, fun hs c hc => ?_⟩
  · exact ⟨addr hs 2, addr hs 3, addr hs 4⟩
  · rw [addr hs]
    omega

/-! ## BIND_CHAN -/

/-- Settles O17: the two checks stand in the rule's order. -/
theorem bindChanFollowsItsRule : Obligations.BindChanFollowsItsRule := by
  refine ⟨decode_plain_iff rfl rfl, ?_⟩
  rintro s _ rfl
  refine ⟨whenNotFaulted_faulted _, fun hf => ?_⟩
  rw [exec, execBindChan, whenNotFaulted_clear _ hf, raise_of_ne_contract s (by decide),
    raise_of_ne_contract s (by decide)]
  refine ⟨fun hl => if_pos hl, fun hl hc => ?_, fun hl hlo hhi => ?_⟩
  · rw [if_neg (by simp [hl]), if_pos hc]
    rfl
  · rw [if_neg (by simp [hl]), if_neg (by omega)]

/-! ## Commands on an unbound channel -/

/-- R69, R105: the failure path of a contract violation sets FAULT. -/
theorem EncFails.contract_eq {s : State} {r : Result} (h : EncFails .contract s r) :
    r = .next { s with err := .contract, fault := true, txLen := 0 } := by
  simpa [EncFails] using h

/-- Settles O33, from the rules of the encode commands and of RESOLVE. -/
theorem unboundChannelIsAContractViolation : Obligations.UnboundChannelIsAContractViolation := by
  intro s sym hf hl hpos hsym
  have hscoped : mapScoped sym.toNat = true := bne_iff_ne.mpr (Nat.ne_of_gt hpos)
  have raw (fc : Byte) := ((encodeRaw_rule fc true s).2 hf).1 rfl hl
  have symbolic (fc : Byte) (limit : Bool) (D : Nat) := ((encodeSym_rule fc sym.toNat limit D s).2 hf).1 hscoped hl
  refine ⟨?_, execResolve_unbound hsym hf hscoped hl⟩
  simp only [List.forall_mem_cons, exec, execEncRead, execEncWrite, execEncReadSym_eq hsym, execEncWriteSym_eq hsym]
  exact ⟨(raw _).contract_eq, (raw _).contract_eq, (symbolic _ _ _).contract_eq, (symbolic _ _ _).contract_eq, nofun⟩

end Sys2Proof.Machine
end

section
/-! PROOFS of the statements of 43_control.md: NOP (O30), SOFT_RESET (O31), and the frame of NOP, RESOLVE and
BIND_CHAN (O39). -/

namespace Sys2Proof.Machine

/-! ## The words of the control commands -/

/-- R53: under an opcode that takes no operand, a word whose other fields are not all 0 is illegal. -/
theorem decode_eq_none_of_plain_opcode {w : Word} {op : BitVec 4} (hop : TakesNone op) (ho : opField w = op)
    (hne : w ≠ commandWord op 0 false) : decode (.command w) = none := by
  refine Option.not_isSome_iff_eq_none.mp fun hsome => hne ?_
  have legal := decodeCommand_isSome.mp hsome
  have hrsv := legal.rsv_eq_zero
  obtain ⟨hsym, hch⟩ := (legalFields_plain hrsv (ho ▸ hop)).mp legal
  exact (commandWord_eq hrsv ho hsym hch).symm

/-! ## NOP -/

/-- Settles O30: no field of NOP's word is set, and NOP writes ERR alone. -/
theorem nopFollowsItsRule : Obligations.NopFollowsItsRule := by
  refine ⟨decode_plain_iff rfl rfl, fun w ho => ?_, fun s => ⟨whenNotFaulted_faulted _, whenNotFaulted_clear _⟩⟩
  exact decode_eq_none_of_plain_opcode (op := 0) (.inl rfl) (BitVec.eq_of_toNat_eq ho)

/-! ## SOFT_RESET -/

/-- R99: the write of SOFT_RESET's word to CMD is taken in every state, and resets. -/
theorem step_softReset {s : State} {rest : List HostOp} (hp : s.pending = .write32 0x000 0x0000000F :: rest) :
    step s = .next { s.resetAll with pending := rest } :=
  step_instr hp (fetch_command (decode_encode (i := .softReset) rfl))

theorem step_resetInput {s : State} {rest : List HostOp} (hp : s.pending = .resetInput :: rest) :
    step s = .next { s.resetAll with pending := rest } :=
  step_access hp fetch_resetInput

/-- R111: STATUS reads 0 after a reset. -/
theorem resetAll_statusWord (s : State) : s.resetAll.statusWord = 0 :=
  show State.reset.statusWord = 0 by decide

/-- Settles O31: the command and the reset input both answer the reset state; no other word of its opcode decodes. -/
theorem softResetFollowsItsRule : Obligations.SoftResetFollowsItsRule := by
  refine ⟨decode_plain_iff rfl rfl, fun s => ?_, fun w s rest ho hne hp => ?_⟩
  · exact ⟨s.resetAll, rfl, resetAll_statusWord s, rfl, fun _ => step_softReset rfl, fun _ => step_resetInput rfl⟩
  · have illegal : decode (.command w) = none :=
      decode_eq_none_of_plain_opcode (op := 15) (.inr (.inr rfl)) (BitVec.eq_of_toNat_eq ho) hne
    exact step_undecodable hp illegal

/-! ## The frame of NOP, RESOLVE and BIND_CHAN -/

/-- R98: NOP answers the same state but for ERR. -/
theorem exec_nop_next {s t : State} (h : exec .nop s = .next t) : ∃ e, t = s.setErr e := by
  rcases whenNotFaulted_cases h with ⟨_, e⟩ | ⟨_, e⟩
  · exact ⟨_, Host.Outcome.next.inj e⟩
  · exact ⟨_, (Host.Outcome.next.inj e).symm⟩

/-- R92: BIND_CHAN reports an error in ERR alone, or locks the channel. -/
theorem exec_bindChan_next {s t : State} (h : exec .bindChan s = .next t) :
    (∃ e, t = s.setErr e) ∨ t = { s with lock := true, err := .ok } := by
  rcases whenNotFaulted_cases h with ⟨_, e⟩ | ⟨_, e⟩
  · exact .inl ⟨_, Host.Outcome.next.inj e⟩
  rw [raise_of_ne_contract s (by decide), raise_of_ne_contract s (by decide)] at e
  split at e
  · exact .inl ⟨_, (Host.Outcome.next.inj e).symm⟩
  split at e
  · exact .inl ⟨_, (Host.Outcome.next.inj e).symm⟩
  · exact .inr (Host.Outcome.next.inj e).symm

/-- R91: RESOLVE reports an error in ERR and FAULT alone, or succeeds. -/
theorem exec_resolve_next {sym : BitVec 4} {s t : State} (h : exec (.resolve sym) s = .next t) :
    (∃ e fault, t = { s with err := e, fault := fault }) ∨ Succeeds (.resolve sym) s t := by
  rcases exec_command_cases rfl Instr.noConfusion h with ⟨_, rfl⟩ | ⟨_, e, _, _, _, rfl⟩ | ⟨_, hs⟩
  · exact .inl ⟨_, s.fault, rfl⟩
  · exact .inl ⟨e, _, (raise_failed rfl rfl).symm⟩
  · exact .inr hs

/-- Settles O39, from what each of the three commands can answer: none of them stores a byte. -/
theorem controlAndMapCommandsFrame : Obligations.ControlAndMapCommandsFrame := by
  refine fun s t => ⟨fun h => ?_, fun h => ?_, fun sym h => ?_⟩
  · obtain ⟨_, rfl⟩ := exec_nop_next h
    exact ⟨rfl, fun _ => rfl⟩
  · rcases exec_bindChan_next h with ⟨_, rfl⟩ | rfl <;> exact ⟨rfl, fun _ => rfl⟩
  · rcases exec_resolve_next h with ⟨_, _, rfl⟩ | ⟨_, _, _, rfl⟩ <;> exact ⟨rfl, fun _ => rfl⟩

end Sys2Proof.Machine
end

section
/-! PROOFS of the statements of 60_exceptions.md: the faulted machine (O34), the sticky FAULT (O35), and what a command
that ends in an error writes (O36). -/

namespace Sys2Proof.Machine

/-! ## A faulted machine refuses commands -/

/-- R103 step 1: a command other than SOFT_RESET answers E_FAULTED while FAULT = 1, since it neither fails nor succeeds
there. -/
theorem exec_faulted {i : Instr} {s : State} (hf : s.fault = true) (hc : isCommand i = true) (hr : i ≠ .softReset) :
    exec i s = .next (s.setErr .faulted) := by
  obtain ⟨t, h⟩ := everyInstructionCompletes i s fun _ hclear => by simp [hf] at hclear
  rw [h]
  rcases exec_command_cases hc hr h with ⟨_, rfl⟩ | ⟨hclear, _⟩ | ⟨hclear, _⟩
  · rfl
  · simp [hf] at hclear
  · simp [hf] at hclear

/-- R4, R51: a word decodes to a command, never to a wire frame. -/
theorem isCommand_of_decode_command {w : Word} {i : Instr} (h : decode (.command w) = some i) : isCommand i = true := by
  have hcode := (decode_eq_some_iff.mp h).2
  cases i with
  | fc03ReadHolding _ _ _ _ | fc06WriteSingle _ _ _ _ => cases hcode
  | _ => rfl

/-- Settles O34: a word is refused as the command it decodes to, or as an illegal word. -/
theorem faultedMachineRefusesCommands : Obligations.FaultedMachineRefusesCommands := by
  refine ⟨fun s i => exec_faulted, fun s w rest hf hw hp => ?_⟩
  cases hd : decode (.command w) with
  | none => rw [step_undecodable hp hd, if_pos hf]
  | some i =>
    have hr : i ≠ .softReset := by
      rintro rfl
      exact hw (decodeCommand_softReset hd)
    rw [step_instr hp (fetch_command hd)]
    exact exec_faulted (s := { s with pending := rest }) hf (isCommand_of_decode_command hd) hr

/-! ## The report of a command -/

@[simp] theorem failed_err (i : Instr) (e : ErrCode) (s : State) : (failed i e s).err = e := by
  unfold failed
  repeat' split
  all_goals rfl

/-- R101, R105: a command that succeeds reports OK and leaves FAULT alone. -/
theorem Succeeds.err_fault {i : Instr} {s t : State} (h : Succeeds i s t) : t.err = .ok ∧ t.fault = s.fault := by
  cases i with
  | nop => cases h; exact ⟨rfl, rfl⟩
  | encRead _ | encWrite _ => obtain ⟨_, _, rfl⟩ := h; exact ⟨rfl, rfl⟩
  | encReadSym _ | encWriteSym _ => obtain ⟨_, _, _, rfl⟩ := h; exact ⟨rfl, rfl⟩
  | resolve _ | bindChan | lrcCheck => obtain ⟨_, _, _, rfl⟩ := h; exact ⟨rfl, rfl⟩
  | decode | decodeTemp | decodePstate => obtain ⟨_, _, _, _, rfl⟩ := h; exact ⟨rfl, rfl⟩
  | softReset => exact h.elim
  | fc03ReadHolding _ _ _ _ | fc06WriteSingle _ _ _ _ => exact h.elim

/-- R69, R80, R104: the failure path of an error other than E_CONTRACT, register by register. -/
theorem failed_of_ne_contract {e : ErrCode} (i : Instr) (s : State) (he : e ≠ .contract) :
    failed i e s = { s with
      err := e
      txLen := if isEncode i = true ∧ e ≠ .illegal then 0 else s.txLen
      lrcok := if readsLine i = true then false else s.lrcok } := by
  by_cases henc : isEncode i = true ∧ e ≠ .illegal
  · obtain ⟨_, _, hline⟩ := isEncode_kind henc.1
    rw [failed, if_pos henc, if_pos henc, State.encFail, raise_of_ne_contract s he]
    simp [hline, State.setErr]
  · rw [failed, if_neg henc, if_neg henc, raise_of_ne_contract s he]
    split <;> rfl

/-- Settles O36: E_FAULTED and the failure path are the ways to report an error; success reports OK. -/
theorem errorsChangeNothingElse : Obligations.ErrorsChangeNothingElse := by
  intro i s t hc h hok hcontract
  have hr : i ≠ .softReset := by
    rintro rfl
    cases h
    exact hok rfl
  rcases exec_command_cases hc hr h with ⟨_, rfl⟩ | ⟨_, e, _, hfaulted, _, rfl⟩ | ⟨_, hs⟩
  · simp [State.setErr]
  · rw [failed_err] at hcontract ⊢
    simp [failed_of_ne_contract i s hcontract, hfaulted]
  · exact absurd hs.err_fault.1 hok

/-! ## The sticky FAULT -/

/-- R105: between the states s and t FAULT is as before, or set with ERR = E_CONTRACT. -/
def FaultOnlyByContract (s t : State) : Prop := t.fault = s.fault ∨ t.fault = true ∧ t.err = .contract

theorem failed_faultOnlyByContract {i : Instr} {e : ErrCode} (s : State) (hline : readsLine i = true → e ≠ .contract) :
    FaultOnlyByContract s (failed i e s) := by
  by_cases he : e = .contract
  · subst he
    have hread : readsLine i = false := Bool.eq_false_iff.mpr fun hl => hline hl rfl
    refine .inr ⟨?_, failed_err i _ s⟩
    rw [failed, hread]
    split <;> simp
  · rw [failed_of_ne_contract i s he]
    exact .inl rfl

theorem HostFrame.fault_eq {s t : State} (h : HostFrame s t) : t.fault = s.fault := by rw [h.fields]

/-- R105: an instruction other than SOFT_RESET, refused, failed or successful; a wire frame is a line loaded. -/
theorem exec_faultOnlyByContract {i : Instr} {s t : State} (hr : i ≠ .softReset) (h : exec i s = .next t) :
    FaultOnlyByContract s t := by
  cases hc : isCommand i with
  | true =>
    rcases exec_command_cases hc hr h with ⟨_, rfl⟩ | ⟨_, e, _, _, hline, rfl⟩ | ⟨_, hs⟩
    · exact .inl rfl
    · exact failed_faultOnlyByContract s fun hl => (hline hl).1
    · exact .inl hs.err_fault.2
  | false => exact .inl (exec_frame_hostFrame hc h).fault_eq

/-- R41 (c): no register write changes FAULT. -/
@[simp] theorem writeReg_fault (s : State) (r : Reg) (v : Word) : (s.writeReg r v).fault = s.fault := by
  unfold State.writeReg
  repeat' split
  all_goals rfl

/-- R105: a step without reset, by its effects; only a command sets FAULT. -/
theorem step_faultOnlyByContract {s t : State} (h : step s = .next t)
    (hn : ∀ op, s.pending.head? = some op → isReset op = false) : FaultOnlyByContract s t := by
  cases hp : s.pending with
  | nil =>
    rw [step_idle hp] at h
    cases h
    exact .inl rfl
  | cons op rest =>
    have hop : isReset op = false := hn op (by rw [hp]; rfl)
    rcases step_effect hp hop h with ⟨i, hf, _⟩ | ⟨e, rfl⟩ | ⟨r, v, rfl⟩ | frame
    · have hr : i ≠ .softReset := by
        rintro rfl
        simp [isReset_of_fetch_softReset hf] at hop
      rw [step_instr hp hf] at h
      exact exec_faultOnlyByContract (s := { s with pending := rest }) hr h
    · exact .inl rfl
    · exact .inl (writeReg_fault _ r v)
    · exact .inl frame.fault_eq

/-- Settles O35, from what a step without reset does to FAULT. -/
theorem faultIsSticky : Obligations.FaultIsSticky := by
  intro s t h hn
  rcases step_faultOnlyByContract h hn with hsame | ⟨hset, hcontract⟩
  · exact ⟨hsame.trans, fun hclear ht => by simp [hsame, hclear] at ht⟩
  · exact ⟨fun _ => hset, fun _ _ => hcontract⟩

end Sys2Proof.Machine
end

section
/-! PROOFS of the statements of 70_reset_and_hazards.md: the table of reset values (O32), and the invariant after reset
(O47). -/

namespace Sys2Proof.Machine

/-! ## What a reset leaves -/

/-- R99, R111: both reset inputs answer the reset state, with the inputs that are left still pending. -/
theorem step_of_isReset {s : State} {op : HostOp} {rest : List HostOp} (hp : s.pending = op :: rest)
    (hr : isReset op = true) : step s = .next { s.resetAll with pending := rest } := by
  have hop : op = .resetInput ∨ op = .write32 0x000 0x0000000F := by simpa [isReset] using hr
  rcases hop with rfl | rfl
  · exact step_resetInput hp
  · exact step_softReset hp

/-- R111: every register reads as after reset, whatever the RXMAX and the model's own fields are. -/
@[simp] theorem readReg_resetAll (s : State) (r : Reg) : s.resetAll.readReg r = State.reset.readReg r := by
  cases r <;> rfl

/-- Settles O32: each of the states is what `resetAll` makes of some state, and so reads as `State.reset` does. -/
theorem resetLeavesTheTableOfValues : Obligations.ResetLeavesTheTableOfValues := by
  intro s t op rest h
  have hreset : ∃ u : State, t = u.resetAll := by
    rcases h with rfl | ⟨rxMax, rfl⟩ | ⟨hp, hr, hstep⟩
    · exact ⟨State.reset, rfl⟩
    · exact ⟨State.resetWith rxMax, rfl⟩
    · rw [step_of_isReset hp hr] at hstep
      exact ⟨{ s with pending := rest }, (Host.Outcome.next.inj hstep).symm⟩
  obtain ⟨u, rfl⟩ := hreset
  simp only [readReg_resetAll, State.resetAll_mem]
  exact ⟨by decide, by decide, by decide, by decide, fun _ => rfl⟩

/-! ## The invariant after reset -/

/-- R8, R111: of the invariant only the bound on RXMAX is not settled by the reset values: LOCK and FAULT are 0, no byte
is written, and every bounded word is 0. -/
theorem State.resetWith_inv {rxMax : Nat} (h : Config.rxMaxLeast ≤ rxMax) : (State.resetWith rxMax).Inv := by
  constructor
  case rxMax_valid => exact h
  case mem_wf | mem_in => rfl
  case lock_valid => nofun
  case fault_err => exact show false = true ↔ ErrCode.ok = .contract ∨ ErrCode.ok = .faulted by decide
  case tx_frame => exact .inl rfl
  case temp_valid => exact .inl ⟨rfl, rfl, rfl, rfl⟩
  all_goals exact Nat.zero_le _

/-- Settles O47: R8's own RXMAX is one of those it admits. -/
theorem resetMeetsTheInvariant : Obligations.ResetMeetsTheInvariant :=
  ⟨State.resetWith_inv (by decide), fun _ => State.resetWith_inv⟩

end Sys2Proof.Machine
end
